-- ==== Sys2Proof/Config.lean ====
section
/-! DEFINITION. The parameters the spec fixes for the core (spec/00_scope.md R6).

The spec leaves no parameter and no value open: "no result value is left open, so the model needs no draw and no
oracle" (R7 (6)). So there is no free value here. `NCALLERS` (R6, D16) bounds nothing in the model: no rule depends
on it, and a list of transactions (Machine/Transactions.lean) may name any number of callers. The widths of the
signals are the types of Word.lean. -/

namespace Sys2Proof.Config

/-- `VW_NARROW`, the nominal width in bits of a narrow vector (R6). -/
def narrowBits : Nat := 64

/-- `VW_WIDE`, the nominal width in bits of a wide ("q") vector (R6). -/
def wideBits : Nat := 128

/-- The element widths the Lane Vector container admits (R6, R16). -/
def containerWidths : List Nat := [8, 16, 32, 64]

/-- The accumulator is one bit wider than the lane (R6, decision D14). -/
def accumulatorBits (laneBits : Nat) : Nat := laneBits + 1

end Sys2Proof.Config
end

