-- ==== Sys2Proof/Word.lean ====
section
/-! DEFINITION. The bit patterns the signals of a transaction carry (spec/10_state.md R22 and R23, decisions D2 to D4
and D10): the widths `DATA_BITS`, `CMD_BITS`, `TAG_BITS` and `STATUS_BITS` of spec/00_scope.md R6. -/

namespace Sys2Proof

/-- A bus image: the 128-bit pattern on `lhs_data`, `rhs_data` or `rsp_data` (R22, R23). -/
abbrev Data := BitVec 128

/-- A command word, the 16 bits of `cmd` (R22, R43). -/
abbrev Cmd := BitVec 16

/-- A DESC byte: `cmd[7:0]` or a shape tag (R22, R44). -/
abbrev Tag := BitVec 8

/-- The information bits `rsp_info` (R23). -/
abbrev Info := BitVec 2

/-- The bits of the status code `rsp_status` (R23, R110). -/
abbrev StatusBits := BitVec 3

end Sys2Proof
end

