-- ==== Sys2Proof/Syntax.lean ====
section
/-! DEFINITION. The syntax of the core: its one operation, Lane Descriptors, Instruction Descriptors, the twelve
instructions, and the status codes of a response. -/

namespace Sys2Proof

/-- The operations a command word can name: halving-add alone (spec/30_encoding.md R50). -/
inductive Operation where
  | halvingAdd
deriving DecidableEq, Repr

/-- The eight element types of the Lane Vector container (spec/10_state.md R16). -/
inductive ElementType where
  | s8 | s16 | s32 | s64 | u8 | u16 | u32 | u64
deriving DecidableEq, Repr

/-- The vector families: 64-bit (narrow) and 128-bit (wide, "q") vectors (spec/10_state.md R19). -/
inductive Family where
  | narrow | wide
deriving DecidableEq, Repr

/-- The triple `(elementWidthBits, isSigned, laneCount)` of spec/10_state.md R18. Which triples are Lane Descriptors
is `LaneDescriptor.wf` (R19). -/
structure LaneDescriptor where
  elementWidthBits : Nat
  isSigned : Bool
  laneCount : Nat
deriving DecidableEq, Repr

/-- An operation together with a Lane Descriptor (spec/10_state.md R20). -/
structure InstructionDescriptor where
  operation : Operation
  lanes : LaneDescriptor
deriving DecidableEq, Repr

/-- The twelve instructions (spec/30_encoding.md R51), one constructor per row of the opcode table. None has an
operand field: no immediate, no register specifier, no addressing mode (R53). -/
inductive Instr where
  | haddS8 | haddS16 | haddS32
  | haddU8 | haddU16 | haddU32
  | haddqS8 | haddqS16 | haddqS32
  | haddqU8 | haddqU16 | haddqU32
deriving DecidableEq, Repr

/-- The causes of a reject (spec/60_exceptions.md R110, codes 1 to 4). -/
inductive RejectCode where
  | errOp        -- R111: `cmd[15:8]` names no operation
  | errDesc      -- R112: `cmd[7:0]` encodes no Lane Descriptor
  | errNoKernel  -- R113: the dispatch table has no entry
  | errShape     -- R114: an operand tag differs from `cmd[7:0]`
deriving DecidableEq, Repr

/-- What `rsp_status` says. It has five values, as "a model's status type" has (spec/93_implementation_defined.md U10):
codes 5 to 7 are never produced. -/
inductive Status where
  | ok
  | reject (code : RejectCode)
deriving DecidableEq, Repr

/-- What decoding a command word gives: an instruction, or the reject that names why there is none
(spec/30_encoding.md R57). -/
inductive Decoded where
  | legal (i : Instr)
  | illegal (code : RejectCode)
deriving DecidableEq, Repr

end Sys2Proof
end

