-- ==== Sys2Proof/WellFormed.lean ====
section
/-! DEFINITION. Which syntax is well formed: the Lane Descriptor invariant of spec/10_state.md R19 over the element
types of R16, the one check the spec puts on syntax. (A command word is checked by Decode.lean, a request by
Safety.lean.) -/

namespace Sys2Proof

/-- The element type of a descriptor, if its width is one the container admits (spec/10_state.md R16). -/
def LaneDescriptor.elementType? (d : LaneDescriptor) : Option ElementType :=
  match d.isSigned, d.elementWidthBits with
  | true, 8 => some .s8
  | true, 16 => some .s16
  | true, 32 => some .s32
  | true, 64 => some .s64
  | false, 8 => some .u8
  | false, 16 => some .u16
  | false, 32 => some .u32
  | false, 64 => some .u64
  | _, _ => none

/-- The bits a vector of this descriptor has: `laneCount * elementWidthBits` (spec/10_state.md R19). -/
def LaneDescriptor.vectorBits (d : LaneDescriptor) : Nat := d.laneCount * d.elementWidthBits

/-- The family of a descriptor: the nominal width its product equals, none for any other product (R19). -/
def LaneDescriptor.family? (d : LaneDescriptor) : Option Family :=
  if d.vectorBits = Config.narrowBits then some .narrow
  else if d.vectorBits = Config.wideBits then some .wide
  else none

/-- A triple is a Lane Descriptor: its element type is one of the eight (R16) and its product is a nominal vector
width, "the sole structural integrity constraint" (spec/10_state.md R19). -/
def LaneDescriptor.wf (d : LaneDescriptor) : Bool :=
  Config.containerWidths.contains d.elementWidthBits && d.family?.isSome

/-- An Instruction Descriptor is well formed when its Lane Descriptor is (spec/10_state.md R19, R20). -/
def InstructionDescriptor.wf (d : InstructionDescriptor) : Bool := d.lanes.wf

end Sys2Proof
end

