-- ==== Sys2Proof/Decode.lean ====
section
/-! DEFINITION. Decoding a command word, total on all 2^16 words (spec/30_encoding.md R57), and after it the encoder,
written from the spec's own tables (R44 to R51). The dispatch table of spec/10_state.md R21 stands here too, since
the decoder's last step is the lookup in it (spec/42_dispatch.md R102). -/

namespace Sys2Proof

/-! ### Fields -/

/-- `cmd[15:8]`, the operation identifier (R43). -/
def opField (cmd : Cmd) : BitVec 8 := cmd.extractLsb' 8 8

/-- `cmd[7:0]`, the descriptor byte (R43). -/
def descField (cmd : Cmd) : Tag := cmd.extractLsb' 0 8

/-- `desc[7:6]`, reserved (R44). -/
def rsvField (desc : Tag) : BitVec 2 := desc.extractLsb' 6 2

/-- `desc[5]`, signedness: 1 is signed (R44, R45). -/
def sgnField (desc : Tag) : Bool := desc.getLsbD 5

/-- `desc[4:3]`, the element width code (R44). -/
def ewcField (desc : Tag) : BitVec 2 := desc.extractLsb' 3 2

/-- `desc[2:0]`, the lane count code (R44). -/
def lcField (desc : Tag) : BitVec 3 := desc.extractLsb' 0 3

/-! ### Decoding -/

/-- The identifier of halving-add (R50, decision D5). -/
def opHadd : BitVec 8 := 0x01

/-- The operation an identifier names; every other value is reserved (R50). -/
def decodeOperation (op : BitVec 8) : Option Operation :=
  if op = opHadd then some .halvingAdd else none

/-- `W = 8 * 2^ewc` (R46). -/
def widthOfCode (ewc : BitVec 2) : Nat := 8 * 2 ^ ewc.toNat

/-- `N = 2^lc` (R47). -/
def countOfCode (lc : BitVec 3) : Nat := 2 ^ lc.toNat

/-- A DESC byte is well formed: reserved bits zero, `lc <= 4`, and `ewc + lc` is 3 or 4 (R48). -/
def wfDesc (desc : Tag) : Bool :=
  let ewc := (ewcField desc).toNat
  let lc := (lcField desc).toNat
  rsvField desc == 0 && decide (lc ≤ 4) && (ewc + lc == 3 || ewc + lc == 4)

/-- The triple the three fields of a byte spell, whether or not the byte is well formed (R45 to R47). -/
def descriptorFields (desc : Tag) : LaneDescriptor :=
  { elementWidthBits := widthOfCode (ewcField desc)
    isSigned := sgnField desc
    laneCount := countOfCode (lcField desc) }

/-- The Lane Descriptor a byte encodes; a malformed byte encodes none (R48). -/
def decodeDescriptor (desc : Tag) : Option LaneDescriptor :=
  if wfDesc desc then some (descriptorFields desc) else none

/-- One entry of the dispatch table: an Instruction Descriptor and the instruction that stands for its kernel
instantiation (spec/10_state.md R20, R21). -/
structure DispatchEntry where
  descriptor : InstructionDescriptor
  instr : Instr
deriving DecidableEq, Repr

/-- The row of an element width, signedness and lane count under halving-add. -/
def DispatchEntry.hadd (W : Nat) (sgn : Bool) (N : Nat) (i : Instr) : DispatchEntry :=
  { descriptor := { operation := .halvingAdd
                    lanes := { elementWidthBits := W, isSigned := sgn, laneCount := N } }
    instr := i }

/-- The constant dispatch table, in the row order of spec/10_state.md R21. -/
def dispatchTable : List DispatchEntry :=
  [ .hadd 8 true 8 .haddS8,
    .hadd 16 true 4 .haddS16,
    .hadd 32 true 2 .haddS32,
    .hadd 8 false 8 .haddU8,
    .hadd 16 false 4 .haddU16,
    .hadd 32 false 2 .haddU32,
    .hadd 8 true 16 .haddqS8,
    .hadd 16 true 8 .haddqS16,
    .hadd 32 true 4 .haddqS32,
    .hadd 8 false 16 .haddqU8,
    .hadd 16 false 8 .haddqU16,
    .hadd 32 false 4 .haddqU32 ]

/-- Select the one instantiation for an operation and a Lane Descriptor (spec/42_dispatch.md R102). -/
def lookup (op : Operation) (d : LaneDescriptor) : Option Instr :=
  (dispatchTable.find? fun e => e.descriptor = { operation := op, lanes := d }).map (·.instr)

/-- Decode a command word: operation, descriptor, table, in that order (R57). -/
def decode (cmd : Cmd) : Decoded :=
  match decodeOperation (opField cmd) with
  | none => .illegal .errOp
  | some op =>
    match decodeDescriptor (descField cmd) with
    | none => .illegal .errDesc
    | some d =>
      match lookup op d with
      | none => .illegal .errNoKernel
      | some i => .legal i

/-- The word is one of the twelve instructions (R51). -/
def Decoded.isLegal : Decoded → Bool
  | .legal _ => true
  | .illegal _ => false

/-- The instruction the decoder reads from a table word. An instruction is exactly one 16-bit word (R56), presented
whole on `cmd`, so the word's bit numbering is the table's. -/
def decodeTableWord (nbits w : Nat) : Option Instr :=
  match decode (BitVec.ofNat 16 (w % 2 ^ nbits)) with
  | .legal i => some i
  | .illegal _ => none

/-! ### Encoding -/

/-- The command word of each instruction, from the table of R51. -/
def encode : Instr → Cmd
  | .haddS8 => 0x0123
  | .haddS16 => 0x012A
  | .haddS32 => 0x0131
  | .haddU8 => 0x0103
  | .haddU16 => 0x010A
  | .haddU32 => 0x0111
  | .haddqS8 => 0x0124
  | .haddqS16 => 0x012B
  | .haddqS32 => 0x0132
  | .haddqU8 => 0x0104
  | .haddqU16 => 0x010B
  | .haddqU32 => 0x0112

/-- The shape of each instruction, from the table of R51 (and the rules R83 to R94 of spec/41_halving_add.md). -/
def Instr.descriptor : Instr → LaneDescriptor
  | .haddS8 => { elementWidthBits := 8, isSigned := true, laneCount := 8 }
  | .haddS16 => { elementWidthBits := 16, isSigned := true, laneCount := 4 }
  | .haddS32 => { elementWidthBits := 32, isSigned := true, laneCount := 2 }
  | .haddU8 => { elementWidthBits := 8, isSigned := false, laneCount := 8 }
  | .haddU16 => { elementWidthBits := 16, isSigned := false, laneCount := 4 }
  | .haddU32 => { elementWidthBits := 32, isSigned := false, laneCount := 2 }
  | .haddqS8 => { elementWidthBits := 8, isSigned := true, laneCount := 16 }
  | .haddqS16 => { elementWidthBits := 16, isSigned := true, laneCount := 8 }
  | .haddqS32 => { elementWidthBits := 32, isSigned := true, laneCount := 4 }
  | .haddqU8 => { elementWidthBits := 8, isSigned := false, laneCount := 16 }
  | .haddqU16 => { elementWidthBits := 16, isSigned := false, laneCount := 8 }
  | .haddqU32 => { elementWidthBits := 32, isSigned := false, laneCount := 4 }

/-- The width code of an element width (R46). -/
def codeOfWidth : Nat → Option (BitVec 2)
  | 8 => some 0b00
  | 16 => some 0b01
  | 32 => some 0b10
  | 64 => some 0b11
  | _ => none

/-- The lane count code of a lane count (R47). -/
def codeOfCount : Nat → Option (BitVec 3)
  | 1 => some 0b000
  | 2 => some 0b001
  | 4 => some 0b010
  | 8 => some 0b011
  | 16 => some 0b100
  | _ => none

/-- The DESC byte of a Lane Descriptor; a triple that is none has no byte (R44, R48). -/
def encodeDescriptor (d : LaneDescriptor) : Option Tag :=
  if d.wf then
    match codeOfWidth d.elementWidthBits, codeOfCount d.laneCount with
    | some ewc, some lc => some ((0b00 : BitVec 2) ++ BitVec.ofBool d.isSigned ++ ewc ++ lc)
    | _, _ => none
  else none

/-- The command word of an Instruction Descriptor: identifier, then DESC byte (R43). It exists for every well-formed
descriptor, those with 64-bit elements included, which select no kernel (R54). -/
def encodeInstructionDescriptor (d : InstructionDescriptor) : Option Cmd :=
  match d.operation with
  | .halvingAdd => (encodeDescriptor d.lanes).map fun desc => opHadd ++ desc

end Sys2Proof
end

