-- ==== Sys2Proof/Machine/State.lean ====
section
/-! DEFINITION. The state of the model: the signals of one transaction and nothing else.

The core holds nothing between transactions (spec/10_state.md R9): no general register (R10), program counter (R11),
flag (R12), control register (R13), register file (R14) or memory (R28). What exists during a transaction are its
request signals (R22) and its response signals (R23). Since the step of the model is a function of its state alone,
the request the host drives stands in the state beside the response the core drives (notes/assumptions/1.md). -/

namespace Sys2Proof.Machine

/-- The request port, driven by the host (spec/10_state.md R22). -/
structure Request where
  /-- `req_valid`. -/
  valid : Bool
  /-- `cmd`. -/
  cmd : Cmd
  /-- `lhs_tag`. -/
  lhsTag : Tag
  /-- `lhs_data`. -/
  lhsData : Data
  /-- `rhs_tag`. -/
  rhsTag : Tag
  /-- `rhs_data`. -/
  rhsData : Data
deriving DecidableEq, Repr

/-- The response port, driven by the core (spec/10_state.md R23). -/
structure Response where
  /-- `rsp_valid`. -/
  valid : Bool
  /-- What `rsp_status` says (its three bits: `Response.statusBits`). -/
  status : Status
  /-- `rsp_info`. -/
  info : Info
  /-- `rsp_tag`. -/
  tag : Tag
  /-- `rsp_data`. -/
  data : Data
deriving DecidableEq, Repr

/-- All there is: the request signals and the response signals (R9). -/
structure State where
  req : Request
  rsp : Response
deriving DecidableEq, Repr

/-- The faults of the machine: none. Every transaction completes with exactly one response and "a model has no stuck
state" (spec/70_reset_and_hazards.md R136); a violated caller contract is a response of the core (R115), a next state.
No one raises a fault, so the type is safe: it has no value. -/
inductive Fault where
deriving DecidableEq, Repr

/-- The refusals of the machine. -/
inductive Refusal where
  /-- Raised by an arm of `exec` whose instruction has no meaning yet. Safe: the run stops. No arm raises it now. -/
  | notModelled (mnemonic : String)
deriving DecidableEq, Repr

/-- The machine right after reset (spec/10_state.md R29): the core has nothing to reset, and with `req_valid = 0` every
response signal is 0. The core does not reset the request signals; that the host presents no request and drives zeros
is the model's choice (DESIGN CHOICE, notes/assumptions/2.md). -/
def State.reset : State :=
  { req := { valid := false, cmd := 0, lhsTag := 0, lhsData := 0, rhsTag := 0, rhsData := 0 }
    rsp := { valid := false, status := .ok, info := 0, tag := 0, data := 0 } }

end Sys2Proof.Machine
end

