-- ==== Sys2Proof/Machine/Ops.lean ====
section
/-! DEFINITION. The operations on the signals of a transaction: presenting a request, reading the command, and driving
the three kinds of response (idle, accepted, rejected). A reject is the core's whole trap mechanism
(spec/60_exceptions.md), so `State.reject` is where an exception is taken; there is no return from it (R119). -/

namespace Sys2Proof.Machine

/-- A Lane Vector on a port: the pair (tag, data) (spec/10_state.md R22). -/
structure PortVector where
  tag : Tag
  data : Data
deriving DecidableEq, Repr

/-- The left operand, `(lhs_tag, lhs_data)` (spec/42_dispatch.md R98). -/
def Request.lhs (q : Request) : PortVector := { tag := q.lhsTag, data := q.lhsData }

/-- The right operand, `(rhs_tag, rhs_data)` (spec/42_dispatch.md R98). -/
def Request.rhs (q : Request) : PortVector := { tag := q.rhsTag, data := q.rhsData }

/-- The request that asks for the command `cmd` on two vectors (R98). -/
def Request.call (cmd : Cmd) (lhs rhs : PortVector) : Request :=
  { valid := true, cmd := cmd
    lhsTag := lhs.tag, lhsData := lhs.data
    rhsTag := rhs.tag, rhsData := rhs.data }

/-- The host drives the request port with `q`; the response port is untouched. -/
def State.present (q : Request) (s : State) : State := { s with req := q }

/-- The core drives the response port with `r`; the request port, the host's, is untouched. -/
def State.driveResponse (r : Response) (s : State) : State := { s with rsp := r }

/-- Every response signal 0: no transaction takes place (spec/42_dispatch.md R108). -/
def Response.idle : Response :=
  { valid := false, status := .ok, info := 0, tag := 0, data := 0 }

/-- Status OK with the result's tag and bus image (spec/42_dispatch.md R99, R104). -/
def Response.accepted (tag : Tag) (data : Data) : Response :=
  { valid := true, status := .ok, info := 0, tag := tag, data := data }

/-- `raise Reject(code, info)`: the code, the information bits, and zeros for tag and data
(spec/42_dispatch.md R99, spec/60_exceptions.md R115). -/
def Response.rejected (code : RejectCode) (info : Info) : Response :=
  { valid := true, status := .reject code, info := info, tag := 0, data := 0 }

/-- Taking the core's one exception: the reject outcome is the response of the same transaction, and "a reject saves
nothing, changes no mode, masks nothing, uses no stack and transfers control nowhere" (spec/60_exceptions.md R115,
R117). -/
def State.reject (code : RejectCode) (info : Info) (s : State) : State :=
  s.driveResponse (.rejected code info)

/-- Completing a transaction with a result (spec/42_dispatch.md R104). -/
def State.accept (tag : Tag) (data : Data) (s : State) : State :=
  s.driveResponse (.accepted tag data)

/-- No request is presented: all response signals are 0 (spec/42_dispatch.md R108). -/
def State.idle (s : State) : State := s.driveResponse .idle

/-- The command the host presents, if it presents a request: the core fetches nothing, each command word comes on `cmd`
with its operands (spec/20_memory.md R40). -/
def State.command? (s : State) : Option Cmd := if s.req.valid then some s.req.cmd else none

/-- The host presents the command `cmd` with both tags equal to `cmd[7:0]`, all that an instruction needs in order to
execute (spec/70_reset_and_hazards.md R131, spec/30_encoding.md R52); the operand data stay as they are. -/
def State.presentCommand (cmd : Cmd) (s : State) : State :=
  s.present { s.req with valid := true, cmd := cmd, lhsTag := descField cmd, rhsTag := descField cmd }

/-- The result vector of a response. A reject carries none: the zeros on `rsp_tag` and `rsp_data` are not a result
vector (spec/60_exceptions.md R115), and an idle response carries none. -/
def Response.vector? (r : Response) : Option PortVector :=
  match r.valid, r.status with
  | true, .ok => some { tag := r.tag, data := r.data }
  | _, _ => none

end Sys2Proof.Machine
end

