-- ==== Sys2Proof/Machine/Operands.lean ====
section
/-! DEFINITION. Where lanes stand on a bus image and what the operand tags must be. There is one operand form: a whole
vector on a port, taken at the width the descriptor gives (spec/30_encoding.md R53). -/

namespace Sys2Proof.Machine

/-- `lane(W, d, i) = d[W*i + W - 1 : W*i]` (spec/10_state.md R25). It is read for `i < N` only: the callers range over
the lanes of a shape. -/
def lane (W : Nat) (d : Data) (i : Nat) : BitVec W := d.extractLsb' (W * i) W

/-- The bit field of lane `i` of width `W`. -/
def laneMask (W i : Nat) : Data := (BitVec.allOnes W).setWidth 128 <<< (W * i)

/-- `d[W*i + W - 1 : W*i] = v`, the other bits of `d` unchanged (spec/40_lane_vector.md R61, spec/41_halving_add.md
R76). -/
def setLane {W : Nat} (d : Data) (i : Nat) (v : BitVec W) : Data :=
  (d &&& ~~~ laneMask W i) ||| (v.setWidth 128 <<< (W * i))

/-- The bus image whose lanes `0..N-1` are `f 0 .. f (N-1)` and whose bits at and above `N*W` are 0: start from 0 and
set the lanes one by one (R61, R76). -/
def packLanes {W : Nat} (f : Nat → BitVec W) : Nat → Data
  | 0 => 0
  | n + 1 => setLane (packLanes f n) n (f n)

/-- The bits of a bus image that belong to an `n`-bit vector, the others 0: a narrow vector occupies `d[63:0]`, a wide
one all of `d[127:0]` (spec/10_state.md R26). -/
def vectorImage (n : Nat) (d : Data) : Data := (d.setWidth n).setWidth 128

/-- `ml`: the left tag differs from the instruction's descriptor byte, all eight bits compared (spec/42_dispatch.md
R99, R103). -/
def lhsMismatch (desc : Tag) (q : Request) : Bool := q.lhsTag != desc

/-- `mr`: the right tag differs (spec/42_dispatch.md R99, R103). -/
def rhsMismatch (desc : Tag) (q : Request) : Bool := q.rhsTag != desc

end Sys2Proof.Machine
end

