-- ==== Sys2Proof/Machine/Flags.lean ====
section
/-! DEFINITION. The status outputs of a response. The core has no flags, condition codes or predicates, and no
instruction writes any (spec/10_state.md R12, spec/41_halving_add.md R78); what a response says beside its result is
its status code and its information bits, which are not retained. -/

namespace Sys2Proof.Machine

/-- The three bits of a status on `rsp_status` (spec/60_exceptions.md R110). -/
def statusBits : Status → StatusBits
  | .ok => 0
  | .reject .errOp => 1
  | .reject .errDesc => 2
  | .reject .errNoKernel => 3
  | .reject .errShape => 4

/-- `rsp_status` (spec/10_state.md R23). -/
def Response.statusBits (r : Response) : StatusBits := Sys2Proof.Machine.statusBits r.status

/-- `{mr, ml}`: bit 1 is the right operand's mismatch, bit 0 the left one's (spec/42_dispatch.md R99,
spec/60_exceptions.md R114, decision D23). -/
def mismatchInfo (ml mr : Bool) : Info := BitVec.ofBool mr ++ BitVec.ofBool ml

end Sys2Proof.Machine
end

