-- ==== Sys2Proof/Machine/Kernel.lean ====
section
/-! DEFINITION. The halving-add kernel (spec/41_halving_add.md): the lane kernel by widening, shifting and narrowing
(R71), the clear definition by value (R70), the other forms the spec gives it (R75), and the vector kernel made once
and instantiated twelve times (R76, spec/42_dispatch.md R107). -/

namespace Sys2Proof.Machine

/-- `val(sgn, W, v)`: the integer a lane denotes, two's complement for a signed type (spec/10_state.md R17). -/
def laneVal (sgn : Bool) {W : Nat} (v : BitVec W) : Int := if sgn then v.toInt else (v.toNat : Int)

/-- `T_MAX` (spec/10_state.md R17). -/
def typeMax (sgn : Bool) (W : Nat) : Int := if sgn then 2 ^ (W - 1) - 1 else 2 ^ W - 1

/-- `T_MIN`; the least value of an unsigned type is 0 (spec/10_state.md R17). -/
def typeMin (sgn : Bool) (W : Nat) : Int := if sgn then -2 ^ (W - 1) else 0

/-- `floor(n / 2)`, rounding toward negative infinity (spec/00_scope.md section 4, spec/41_halving_add.md R70). -/
def floorHalf (n : Int) : Int := n.fdiv 2

/-- `hadd_val`: the pattern that denotes the floor of the half-sum (R70). -/
def haddVal (sgn : Bool) {W : Nat} (x y : BitVec W) : BitVec W :=
  BitVec.ofInt W (floorHalf (laneVal sgn x + laneVal sgn y))

/-- Widen a lane to `n` bits: `sext_n` for a signed lane, `zext_n` for an unsigned one (R71). -/
def widen (sgn : Bool) (n : Nat) {W : Nat} (x : BitVec W) : BitVec n :=
  if sgn then x.signExtend n else x.setWidth n

/-- Shift right by one: `asr` for a signed lane (R73), `lsr` for an unsigned one (R72). -/
def shiftRightOne (sgn : Bool) {n : Nat} (x : BitVec n) : BitVec n :=
  if sgn then x.sshiftRight 1 else x >>> 1

/-- The sum of two lanes in an accumulator of `n` bits (R71). -/
def wideSum (sgn : Bool) (n : Nat) {W : Nat} (x y : BitVec W) : BitVec n :=
  widen sgn n x + widen sgn n y

/-- The lane kernel with an accumulator of `n` bits: widen, add, shift by one, narrow (R71). -/
def haddLaneIn (n : Nat) (sgn : Bool) {W : Nat} (x y : BitVec W) : BitVec W :=
  (shiftRightOne sgn (wideSum sgn n x y)).setWidth W

/-- `hadd_lane`: the accumulator is exactly `W + 1` bits wide, at every element width (R71, R74, decision D14). -/
def haddLane (sgn : Bool) {W : Nat} (x y : BitVec W) : BitVec W :=
  haddLaneIn (Config.accumulatorBits W) sgn x y

/-! ### The other forms of R75 -/

/-- `sum[W:1]` of the `(W+1)`-bit sum. -/
def haddLaneBySumBits (sgn : Bool) {W : Nat} (x y : BitVec W) : BitVec W :=
  (wideSum sgn (W + 1) x y).extractLsb' 1 W

/-- The carry out of bit `W-1` of the `W`-bit addition `x + y`. -/
def carryOut {W : Nat} (x y : BitVec W) : Bool := decide (2 ^ W ≤ x.toNat + y.toNat)

/-- `{c, s[W-1:1]}` for unsigned lanes, `{c xor x[W-1] xor y[W-1], s[W-1:1]}` for signed ones, `s` the `W`-bit sum. -/
def haddLaneByCarry (sgn : Bool) {W : Nat} (x y : BitVec W) : BitVec W :=
  let top := if sgn then (carryOut x y).xor (x.msb.xor y.msb) else carryOut x y
  ((x + y) >>> 1) ||| ((BitVec.ofBool top).setWidth W <<< (W - 1))

/-- `(x and y) + ((x xor y) >> 1)`, the shift logical or arithmetic, all in `W` bits. -/
def haddLaneByAndXor (sgn : Bool) {W : Nat} (x y : BitVec W) : BitVec W :=
  (x &&& y) + shiftRightOne sgn (x ^^^ y)

/-! ### The vector kernel -/

/-- `hadd_vec`: the lane kernel on every lane, each on its own; bits at and above `N*W` are 0 (R76). -/
def haddVec (sgn : Bool) (W N : Nat) (da db : Data) : Data :=
  packLanes (fun i => haddLane sgn (lane W da i) (lane W db i)) N

end Sys2Proof.Machine
end

