-- ==== Sys2Proof/Machine/Hadd.lean ====
section
/-! DEFINITION. The meanings of the twelve instructions, each an instantiation of one shared operation
(spec/41_halving_add.md R83 to R94, spec/42_dispatch.md R103, R104, R107). -/

namespace Sys2Proof.Machine

/-- Steps 4 and 5 of a transaction (spec/42_dispatch.md R99): compare both tags with the descriptor byte, reject a
mismatch before the kernel runs (R103), else answer the kernel's result under that tag (R104). -/
def runKernel (desc : Tag) (sgn : Bool) (W N : Nat) (s : State) : Host.Outcome State Fault Refusal :=
  let ml := lhsMismatch desc s.req
  let mr := rhsMismatch desc s.req
  if ml || mr then .next (s.reject .errShape (mismatchInfo ml mr))
  else .next (s.accept desc (haddVec sgn W N s.req.lhsData s.req.rhsData))

/-- `HADD.S8`, shape s8x8 (R83). -/
def execHaddS8 (s : State) : Host.Outcome State Fault Refusal := runKernel 0x23 true 8 8 s

/-- `HADD.S16`, shape s16x4 (R84). -/
def execHaddS16 (s : State) : Host.Outcome State Fault Refusal := runKernel 0x2A true 16 4 s

/-- `HADD.S32`, shape s32x2 (R85). -/
def execHaddS32 (s : State) : Host.Outcome State Fault Refusal := runKernel 0x31 true 32 2 s

/-- `HADD.U8`, shape u8x8 (R86). -/
def execHaddU8 (s : State) : Host.Outcome State Fault Refusal := runKernel 0x03 false 8 8 s

/-- `HADD.U16`, shape u16x4 (R87). -/
def execHaddU16 (s : State) : Host.Outcome State Fault Refusal := runKernel 0x0A false 16 4 s

/-- `HADD.U32`, shape u32x2 (R88). -/
def execHaddU32 (s : State) : Host.Outcome State Fault Refusal := runKernel 0x11 false 32 2 s

/-- `HADDQ.S8`, shape s8x16 (R89). -/
def execHaddqS8 (s : State) : Host.Outcome State Fault Refusal := runKernel 0x24 true 8 16 s

/-- `HADDQ.S16`, shape s16x8 (R90). -/
def execHaddqS16 (s : State) : Host.Outcome State Fault Refusal := runKernel 0x2B true 16 8 s

/-- `HADDQ.S32`, shape s32x4 (R91). -/
def execHaddqS32 (s : State) : Host.Outcome State Fault Refusal := runKernel 0x32 true 32 4 s

/-- `HADDQ.U8`, shape u8x16 (R92). -/
def execHaddqU8 (s : State) : Host.Outcome State Fault Refusal := runKernel 0x04 false 8 16 s

/-- `HADDQ.U16`, shape u16x8 (R93). -/
def execHaddqU16 (s : State) : Host.Outcome State Fault Refusal := runKernel 0x0B false 16 8 s

/-- `HADDQ.U32`, shape u32x4 (R94). -/
def execHaddqU32 (s : State) : Host.Outcome State Fault Refusal := runKernel 0x12 false 32 4 s

end Sys2Proof.Machine
end

