-- ==== Sys2Proof/Machine/Dispatch.lean ====
section
/-! DEFINITION. The dispatch multiplexer: one arm per instruction (spec/42_dispatch.md R104). -/

namespace Sys2Proof.Machine

/-- The effect of an instruction: the meaning its arm calls. -/
def exec (i : Instr) (s : State) : Host.Outcome State Fault Refusal :=
  match i with
  | .haddS8 => Sys2Proof.Machine.execHaddS8 s
  | .haddS16 => Sys2Proof.Machine.execHaddS16 s
  | .haddS32 => Sys2Proof.Machine.execHaddS32 s
  | .haddU8 => Sys2Proof.Machine.execHaddU8 s
  | .haddU16 => Sys2Proof.Machine.execHaddU16 s
  | .haddU32 => Sys2Proof.Machine.execHaddU32 s
  | .haddqS8 => Sys2Proof.Machine.execHaddqS8 s
  | .haddqS16 => Sys2Proof.Machine.execHaddqS16 s
  | .haddqS32 => Sys2Proof.Machine.execHaddqS32 s
  | .haddqU8 => Sys2Proof.Machine.execHaddqU8 s
  | .haddqU16 => Sys2Proof.Machine.execHaddqU16 s
  | .haddqU32 => Sys2Proof.Machine.execHaddqU32 s

end Sys2Proof.Machine
end

