-- ==== Sys2Proof/Machine/Step.lean ====
section
/-! DEFINITION. One step is one transaction: one evaluation of the core on the request the host drives
(spec/10_state.md R24, spec/42_dispatch.md R99). -/

namespace Sys2Proof.Machine

/-- With no request every response signal is 0 (spec/42_dispatch.md R108). With a request the command word is decoded
(R100 to R102): an illegal word is rejected, a legal one is executed. -/
def step (s : State) : Host.Outcome State Fault Refusal :=
  match s.command? with
  | none => .next s.idle
  | some cmd =>
    match decode cmd with
    | .illegal code => .next (s.reject code 0)
    | .legal i => exec i s

/-- The state in which the next step runs the instruction of the table word `w`: the host presents that word with both
tags equal to its low byte. The core fetches nothing (spec/20_memory.md R40), so this stands for the host's driving of
the request port (notes/assumptions/3.md). -/
def State.withFetchWord (s : State) (nbits w : Nat) : State :=
  s.presentCommand (BitVec.ofNat 16 (w % 2 ^ nbits))

end Sys2Proof.Machine
end

