-- ==== Sys2Proof/Machine/Apply.lean ====
section
/-! DEFINITION. The core as the pure function the spec describes, request to response, independent of the path through
decoder and arms that `step` takes: the transaction procedure of spec/42_dispatch.md R99, and the multiplexer view of
R105. -/

namespace Sys2Proof.Machine

/-- `apply(cmd, lhs_tag, lhs_data, rhs_tag, rhs_data)`, the five steps of R99 in their order. The kernel is called with
the `sgn`, `W` and `N` the descriptor's fields spell. -/
def applyProcedure (q : Request) : Response :=
  let desc := descField q.cmd
  let d := descriptorFields desc
  let ml := lhsMismatch desc q
  let mr := rhsMismatch desc q
  if opField q.cmd ≠ opHadd then .rejected .errOp 0
  else if ¬ wfDesc desc then .rejected .errDesc 0
  else if ¬ (dispatchTable.any fun e => e.descriptor == { operation := .halvingAdd, lanes := d }) then
    .rejected .errNoKernel 0
  else if ml || mr then .rejected .errShape (mismatchInfo ml mr)
  else .accepted desc (haddVec d.isSigned d.elementWidthBits d.laneCount q.lhsData q.rhsData)

/-- The response to a request: the procedure of R99 when one is presented, all zeros when none is
(spec/10_state.md R24). -/
def responseTo (q : Request) : Response := if q.valid then applyProcedure q else .idle

/-- One of the six `(sgn, W)` lane arrangements at 128 bits (R105). -/
def arrangement (sgn : Bool) (W : Nat) (da db : Data) : Data := haddVec sgn W (128 / W) da db

/-- The multiplexer (R105): the six arrangements compute in parallel, `cmd[5:0]` (the fields `sgn`, `ewc`, `lc`) selects
the one that drives `rsp_data`, and the bits `[127:64]` are masked off for a narrow family. There is no arrangement of
64-bit elements, so `ewc = 3` selects none. -/
def muxData? (sel : BitVec 6) (da db : Data) : Option Data :=
  let sgn := sel.getLsbD 5
  let ewc := (sel.extractLsb' 3 2).toNat
  let lc := (sel.extractLsb' 0 3).toNat
  let mask := fun full => if ewc + lc = 3 then vectorImage Config.narrowBits full else full
  match ewc with
  | 0 => some (mask (arrangement sgn 8 da db))
  | 1 => some (mask (arrangement sgn 16 da db))
  | 2 => some (mask (arrangement sgn 32 da db))
  | _ => none

end Sys2Proof.Machine
end

