-- ==== Sys2Proof/Machine/LaneVector.lean ====
section
/-! DEFINITION. The Lane Vector container (spec/40_lane_vector.md): construction, indexed read, equality, halves and
concatenation. None is an instruction (decision D26): they are functions of the spec, used to build operands and to
read results. Where the spec gives one no meaning (a wrong number of values, a value outside the type, a vector of
another shape: spec/93_implementation_defined.md U1, U5, U6) the function answers `none`, or its argument's type leaves
no such case (an index is a `Fin N`). -/

namespace Sys2Proof.Machine

/-- The abstract value of a Lane Vector: exactly `N` patterns of `W` bits, lane 0 first (spec/10_state.md R15). Its
shape is its type, so it never changes (R66). -/
structure LaneVector (d : LaneDescriptor) where
  lanes : List (BitVec d.elementWidthBits)
  count : lanes.length = d.laneCount
deriving DecidableEq, Repr

/-- Lane `i` of an abstract vector; `i < N` by type (spec/40_lane_vector.md R62, R63). -/
def LaneVector.lane {d : LaneDescriptor} (v : LaneVector d) (i : Fin d.laneCount) : BitVec d.elementWidthBits :=
  v.lanes[i.val]'(by rw [v.count]; exact i.isLt)

/-- A list of patterns as a Lane Vector: exactly `N` of them, fewer or more is not a construction (R61). -/
def LaneVector.ofList? (d : LaneDescriptor) (vs : List (BitVec d.elementWidthBits)) : Option (LaneVector d) :=
  if h : vs.length = d.laneCount then some { lanes := vs, count := h } else none

/-- The pattern of an integer that is a value of the descriptor's type; another integer cannot be packed (R61). -/
def patternOfInt? (d : LaneDescriptor) (n : Int) : Option (BitVec d.elementWidthBits) :=
  if typeMin d.isSigned d.elementWidthBits ≤ n ∧ n ≤ typeMax d.isSigned d.elementWidthBits then
    some (BitVec.ofInt d.elementWidthBits n)
  else none

/-- A list of integers as a Lane Vector (R61). -/
def LaneVector.ofInts? (d : LaneDescriptor) (ns : List Int) : Option (LaneVector d) :=
  (ns.mapM (patternOfInt? d)).bind (LaneVector.ofList? d)

/-- `pack(D, [v0, ..., v(N-1)])`: the tag of `D` and the bus image of the lanes (R61). A triple that is no Lane
Descriptor has no tag and no vectors. -/
def pack {d : LaneDescriptor} (v : LaneVector d) : Option PortVector :=
  (encodeDescriptor d).map fun tag =>
    { tag := tag, data := packLanes (fun i => v.lanes.getD i 0) d.laneCount }

/-- A port vector has the shape of `d`: its tag is `desc(D)` (R62, R64). -/
def PortVector.hasShape (d : LaneDescriptor) (p : PortVector) : Bool := encodeDescriptor d == some p.tag

/-- `get(D, (tag, data), i)`: requires the tag of `D`, and `i < N` by type (R62, R63). -/
def get? (d : LaneDescriptor) (p : PortVector) (i : Fin d.laneCount) : Option (BitVec d.elementWidthBits) :=
  if p.hasShape d then some (lane d.elementWidthBits p.data i) else none

/-- The abstract value of a port vector of shape `d`. -/
def unpack? (d : LaneDescriptor) (p : PortVector) : Option (LaneVector d) :=
  if p.hasShape d then
    some { lanes := (List.range d.laneCount).map (lane d.elementWidthBits p.data)
           count := by simp }
  else none

/-- `veq`: lane patterns equal in every lane; between vectors of another shape it is not defined (R64). -/
def veq? (d : LaneDescriptor) (a b : PortVector) : Option Bool :=
  if a.hasShape d && b.hasShape d then
    some ((List.range d.laneCount).all fun i =>
      lane d.elementWidthBits a.data i == lane d.elementWidthBits b.data i)
  else none

/-- The descriptor of the same element type with half the lanes (R67). -/
def halfDescriptor (d : LaneDescriptor) : LaneDescriptor := { d with laneCount := d.laneCount / 2 }

/-- The tag of the halves of a port vector of the wide shape `d`; none for another shape or a narrow `d` (R67). -/
def halfTag? (d : LaneDescriptor) (p : PortVector) : Option Tag :=
  if d.family? = some .wide ∧ p.hasShape d then encodeDescriptor (halfDescriptor d) else none

/-- `lo(Dq, v)`: lanes `0..N-1`, the bits `[63:0]` (R67). -/
def lo? (d : LaneDescriptor) (p : PortVector) : Option PortVector :=
  (halfTag? d p).map fun tag => { tag := tag, data := (p.data.extractLsb' 0 64).setWidth 128 }

/-- `hi(Dq, v)`: lanes `N..2N-1` renumbered from 0, the bits `[127:64]` (R67). -/
def hi? (d : LaneDescriptor) (p : PortVector) : Option PortVector :=
  (halfTag? d p).map fun tag => { tag := tag, data := (p.data.extractLsb' 64 64).setWidth 128 }

/-- The descriptor of the same element type with twice the lanes (R68). -/
def doubleDescriptor (d : LaneDescriptor) : LaneDescriptor := { d with laneCount := 2 * d.laneCount }

/-- `cat(D, x, y)`: two vectors of the narrow shape `D` as one wide vector, `x` in the low lanes (R68). -/
def cat? (d : LaneDescriptor) (x y : PortVector) : Option PortVector :=
  if d.family? = some .narrow ∧ x.hasShape d ∧ y.hasShape d then
    (encodeDescriptor (doubleDescriptor d)).map fun tag =>
      { tag := tag, data := y.data.extractLsb' 0 64 ++ x.data.extractLsb' 0 64 }
  else none

/-- The vector kernel on abstract vectors: the lane kernel lane by lane (spec/41_halving_add.md R70, R76). -/
def haddLanes {d : LaneDescriptor} (a b : LaneVector d) : LaneVector d :=
  { lanes := List.zipWith (haddLane d.isSigned) a.lanes b.lanes
    count := by simp [a.count, b.count] }

/-- `apply(operation_id, lhs, rhs)` on typed vectors: a mismatch cannot be written, and the result has the identical
shape; there is none where the dispatch table has no entry (spec/42_dispatch.md R98, R102, R103;
spec/00_scope.md R5). -/
def applyTyped (op : Operation) {d : LaneDescriptor} (a b : LaneVector d) : Option (LaneVector d) :=
  match lookup op d with
  | some _ => some (haddLanes a b)
  | none => none

end Sys2Proof.Machine
end

