-- ==== Sys2Proof/Machine/Transactions.lean ====
section
/-! DEFINITION. Several transactions, one after another, by one or many callers. The host drives the request port anew
for each; the model has one agent that takes one request per step (spec/20_memory.md R42, decision D16), and a program
is a finite list of transactions driven by the host (decision D24). -/

namespace Sys2Proof.Machine

/-- Present `q` and take one step. -/
def transact (q : Request) (s : State) : Host.Outcome State Fault Refusal := step (s.present q)

/-- Serve a list of requests in order: the responses, one per request, and the last state; none if a step stops. -/
def serveAll : List Request → State → Option (List Response × State)
  | [], s => some ([], s)
  | q :: qs, s =>
    match transact q s with
    | .next t => (serveAll qs t).map fun p => (t.rsp :: p.1, p.2)
    | .fault _ => none
    | .refused _ => none

/-- The schedule of several callers: who presents which request, in the order the core takes them. -/
abbrev Schedule := List (Nat × Request)

/-- The requests of one caller, in their order. -/
def requestsOf (caller : Nat) (sched : Schedule) : List Request :=
  (sched.filter fun e => e.1 == caller).map (·.2)

/-- The responses one caller gets when the core serves a schedule from a state. -/
def responsesTo (caller : Nat) (sched : Schedule) (s : State) : Option (List Response) :=
  (serveAll (sched.map (·.2)) s).map fun p =>
    (((sched.map (·.1)).zip p.1).filter fun e => e.1 == caller).map (·.2)

end Sys2Proof.Machine
end

