-- ==== Sys2Proof/Safety.lean ====
section
/-! DEFINITION. What a safe run is, in the terms claims use: a request the caller contract admits, and the invariants
of the response port. -/

namespace Sys2Proof.Machine

/-- The request meets all that the host must do (spec/70_reset_and_hazards.md R131): it is presented, its command word
is one of the twelve, and both tags equal `cmd[7:0]`. -/
def Request.legal (q : Request) : Bool :=
  q.valid && (decode q.cmd).isLegal && q.lhsTag == descField q.cmd && q.rhsTag == descField q.cmd

/-- The response signals are the function of the request signals that spec/10_state.md R24 says they are "at every
moment" (R29). -/
def State.settled (s : State) : Prop := s.rsp = responseTo s.req

/-- A response is one of the three kinds the spec has, and nothing else (spec/10_state.md R23, R26;
spec/60_exceptions.md R110, R114, R115; spec/42_dispatch.md R104, R108): all zeros; or a result under the tag of one of
the twelve instructions, with zeros above a narrow vector; or a reject with zeros for tag and data, whose information
bits are nonzero exactly for `ERR_SHAPE`. -/
def Response.wf (r : Response) : Prop :=
  r = .idle
  ∨ (∃ i : Instr, r.valid = true ∧ r.status = .ok ∧ r.info = 0 ∧ r.tag = descField (encode i)
      ∧ r.data = vectorImage i.descriptor.vectorBits r.data)
  ∨ (∃ c : RejectCode, r.valid = true ∧ r.status = .reject c ∧ r.tag = 0 ∧ r.data = 0
      ∧ (r.info ≠ 0 ↔ c = .errShape))

end Sys2Proof.Machine
end

