-- ==== Sys2Proof/Certificates/Slice0/Obligations.lean ====
section
/-! DEFINITION. The statements for the provers. Each docstring names the rules of the spec it formalises; a rule that
the spec marks `[decision: D<n>]` is the spec's own choice, stated by that rule. The auxiliary definitions stand under
`Sys2Proof.Claims`. -/

namespace Sys2Proof.Claims

open Sys2Proof Sys2Proof.Machine

/-! ### The three kinds of response, signal by signal (spec/10_state.md R23) -/

/-- A result. -/
def okWith (tag : Tag) (data : Data) : Response :=
  { valid := true, status := .ok, info := 0, tag := tag, data := data }

/-- A reject: no tag, no data (spec/60_exceptions.md R115). -/
def rejectWith (code : RejectCode) (info : Info) : Response :=
  { valid := true, status := .reject code, info := info, tag := 0, data := 0 }

/-- Every signal 0 (spec/10_state.md R24). -/
def zeros : Response := { valid := false, status := .ok, info := 0, tag := 0, data := 0 }

/-! ### Words of the instruction rules -/

/-- The lanes of a bus image as integers, lane 0 first. -/
def laneInts (sgn : Bool) (W N : Nat) (d : Data) : List Int :=
  (List.range N).map fun i => laneVal sgn (lane W d i)

/-- The sum in `W + 1` bits, shifted right by one, narrowed to `W` bits: arithmetic for signed lanes, logical for
unsigned ones (spec/41_halving_add.md R83 to R94). -/
def widenedHalf (sgn : Bool) {W : Nat} (x y : BitVec W) : BitVec W :=
  if sgn then ((x.signExtend (W + 1) + y.signExtend (W + 1)).sshiftRight 1).setWidth W
  else ((x.setWidth (W + 1) + y.setWidth (W + 1)) >>> 1).setWidth W

/-- What each of the rules R83 to R94 says of its instruction: its word, its shape, its result under matching tags,
lane by lane, and its one reject. -/
def InstructionRule (i : Instr) (cmd : Cmd) (desc : Tag) (sgn : Bool) (W N : Nat) : Prop :=
  (decode cmd = .legal i ∧ encode i = cmd ∧
    i.descriptor = { elementWidthBits := W, isSigned := sgn, laneCount := N }) ∧
  (∀ s : State, s.req.lhsTag = desc → s.req.rhsTag = desc →
    exec i s = .next { req := s.req
                       rsp := okWith desc (haddVec sgn W N s.req.lhsData s.req.rhsData) }) ∧
  (∀ (a b : Data) (k : Nat), k < N →
    lane W (haddVec sgn W N a b) k = widenedHalf sgn (lane W a k) (lane W b k) ∧
    laneVal sgn (lane W (haddVec sgn W N a b) k)
      = floorHalf (laneVal sgn (lane W a k) + laneVal sgn (lane W b k))) ∧
  (∀ s : State, s.req.lhsTag ≠ desc ∨ s.req.rhsTag ≠ desc →
    exec i s = .next { req := s.req
                       rsp := rejectWith .errShape
                         (BitVec.ofBool (s.req.rhsTag != desc) ++ BitVec.ofBool (s.req.lhsTag != desc)) })

/-- The worked example of an instruction rule: lane lists, their bus images, and the result's. -/
def Example (sgn : Bool) (W N : Nat) (a b r : Data) (as bs rs : List Int) : Prop :=
  haddVec sgn W N a b = r ∧
  laneInts sgn W N a = as ∧ laneInts sgn W N b = bs ∧ laneInts sgn W N r = rs

/-- A wide result is the narrow kernel on each 64-bit half (R82). -/
def HalvesAgree (sgn : Bool) (W N : Nat) : Prop :=
  ∀ a b : Data,
    (haddVec sgn W (2 * N) a b).extractLsb' 0 64
      = (haddVec sgn W N ((a.extractLsb' 0 64).setWidth 128) ((b.extractLsb' 0 64).setWidth 128)).extractLsb' 0 64 ∧
    (haddVec sgn W (2 * N) a b).extractLsb' 64 64
      = (haddVec sgn W N ((a.extractLsb' 64 64).setWidth 128) ((b.extractLsb' 64 64).setWidth 128)).extractLsb' 0 64

/-! ### Other words of the statements -/

/-- The wrong lane kernel that keeps the sum in `W` bits (spec/41_halving_add.md R74, R97). -/
def wrappedHalf (sgn : Bool) {W : Nat} (x y : BitVec W) : BitVec W := shiftRightOne sgn (x + y)

/-- The bus image with one value in each of `N` lanes. -/
def splat {W : Nat} (N : Nat) (v : BitVec W) : Data := packLanes (fun _ => v) N

/-- The state with its two operands swapped. -/
def swapOperands (s : State) : State :=
  { s with req := { s.req with lhsTag := s.req.rhsTag, lhsData := s.req.rhsData
                               rhsTag := s.req.lhsTag, rhsData := s.req.lhsData } }

/-- Each wide instruction beside the narrow one of its element type (spec/10_state.md R21). -/
def familyPairs : List (Instr × Instr) :=
  [(.haddqS8, .haddS8), (.haddqS16, .haddS16), (.haddqS32, .haddS32),
   (.haddqU8, .haddU8), (.haddqU16, .haddU16), (.haddqU32, .haddU32)]

/-- The result vector an instruction answers on two port vectors, whatever else the state holds; none on a reject. -/
def resultOf (i : Instr) (a b : PortVector) (s : State) : Option PortVector :=
  match exec i (s.present (.call (encode i) a b)) with
  | .next t => t.rsp.vector?
  | .fault _ => none
  | .refused _ => none

/-- Two requests that differ at most in operand data. -/
def sameButData (p q : Request) : Prop :=
  p.valid = q.valid ∧ p.cmd = q.cmd ∧ p.lhsTag = q.lhsTag ∧ p.rhsTag = q.rhsTag

/-- The number of command words a predicate holds of, counted by their two bytes `op` and `desc` (R43). -/
def countWords (p : Decoded → Bool) : Nat :=
  ((List.range 256).map fun op =>
    (List.range 256).countP fun desc => p (decode (BitVec.ofNat 8 op ++ BitVec.ofNat 8 desc))).sum

end Sys2Proof.Claims

open Sys2Proof Sys2Proof.Machine Sys2Proof.Claims

/-! ### Encoding -/

/-- The twelve words of R51's table, written out bit by bit, decode to the instructions they stand for. -/
def Obligations.TableWordsDecodeAsWritten : Prop :=
  decode 0b0000000100100011 = .legal .haddS8 ∧ decode 0b0000000100101010 = .legal .haddS16 ∧
  decode 0b0000000100110001 = .legal .haddS32 ∧ decode 0b0000000100000011 = .legal .haddU8 ∧
  decode 0b0000000100001010 = .legal .haddU16 ∧ decode 0b0000000100010001 = .legal .haddU32 ∧
  decode 0b0000000100100100 = .legal .haddqS8 ∧ decode 0b0000000100101011 = .legal .haddqS16 ∧
  decode 0b0000000100110010 = .legal .haddqS32 ∧ decode 0b0000000100000100 = .legal .haddqU8 ∧
  decode 0b0000000100001011 = .legal .haddqU16 ∧ decode 0b0000000100010010 = .legal .haddqU32

/-- R51: decode and encode agree on every instruction and every one of the 2^16 words; a word is legal exactly when
`op = 0x01`, its descriptor byte is well formed, and its element width is 8, 16 or 32; each legal word selects the
dispatch-table entry of its descriptor; and the words and shapes are those of the rule's table. -/
def Obligations.LegalWordsAreTheTwelveEncodings : Prop :=
  (∀ (cmd : Cmd) (i : Instr), decode cmd = .legal i ↔ encode i = cmd) ∧
  (∀ cmd : Cmd, (decode cmd).isLegal = true ↔
    opField cmd = 0x01 ∧ wfDesc (descField cmd) = true ∧
      (widthOfCode (ewcField (descField cmd)) = 8 ∨ widthOfCode (ewcField (descField cmd)) = 16 ∨
        widthOfCode (ewcField (descField cmd)) = 32)) ∧
  (∀ (cmd : Cmd) (i : Instr), decode cmd = .legal i →
    decodeDescriptor (descField cmd) = some i.descriptor ∧ lookup .halvingAdd i.descriptor = some i) ∧
  (let rows : List (Cmd × Instr × ElementType × Nat) :=
    [(0x0123, .haddS8, .s8, 8), (0x012A, .haddS16, .s16, 4), (0x0131, .haddS32, .s32, 2),
     (0x0103, .haddU8, .u8, 8), (0x010A, .haddU16, .u16, 4), (0x0111, .haddU32, .u32, 2),
     (0x0124, .haddqS8, .s8, 16), (0x012B, .haddqS16, .s16, 8), (0x0132, .haddqS32, .s32, 4),
     (0x0104, .haddqU8, .u8, 16), (0x010B, .haddqU16, .u16, 8), (0x0112, .haddqU32, .u32, 4)]
  ∀ row ∈ rows, decode row.1 = .legal row.2.1 ∧
    row.2.1.descriptor.elementType? = some row.2.2.1 ∧ row.2.1.descriptor.laneCount = row.2.2.2)

/-- R49 (the spec derives it from R48): the well-formed descriptor bytes are the sixteen of its table, with the element
type, lane count and family the table gives each. -/
def Obligations.WellFormedBytesAreTheSixteen : Prop :=
  let rows : List (Tag × ElementType × Nat × Family) :=
    [(0x03, .u8, 8, .narrow), (0x0A, .u16, 4, .narrow), (0x11, .u32, 2, .narrow), (0x18, .u64, 1, .narrow),
     (0x04, .u8, 16, .wide), (0x0B, .u16, 8, .wide), (0x12, .u32, 4, .wide), (0x19, .u64, 2, .wide),
     (0x23, .s8, 8, .narrow), (0x2A, .s16, 4, .narrow), (0x31, .s32, 2, .narrow), (0x38, .s64, 1, .narrow),
     (0x24, .s8, 16, .wide), (0x2B, .s16, 8, .wide), (0x32, .s32, 4, .wide), (0x39, .s64, 2, .wide)]
  (∀ b : Tag, wfDesc b = true ↔ b ∈ rows.map (·.1)) ∧
  (∀ row ∈ rows, ∃ d : LaneDescriptor, decodeDescriptor row.1 = some d ∧
    d.elementType? = some row.2.1 ∧ d.laneCount = row.2.2.1 ∧ d.family? = some row.2.2.2)

/-- A Lane Descriptor has exactly one byte: encoding and decoding are inverse on the triples that satisfy the invariant
of R19, and a byte decodes exactly when its reserved bits are 0, its lane count code is at most 4 and its triple
satisfies the invariant (R44 to R48; R48 is marked derived). -/
def Obligations.DescriptorBytesRoundTrip : Prop :=
  (∀ d : LaneDescriptor, d.wf = true →
    ∃ b : Tag, encodeDescriptor d = some b ∧ decodeDescriptor b = some d) ∧
  (∀ (b : Tag) (d : LaneDescriptor), decodeDescriptor b = some d → d.wf = true ∧ encodeDescriptor d = some b) ∧
  (∀ b : Tag, (decodeDescriptor b).isSome = true ↔
    rsvField b = 0 ∧ (lcField b).toNat ≤ 4 ∧ (descriptorFields b).wf = true)

/-- R54: every word other than the twelve is illegal and is rejected with the code of its class, and the classes have
the sizes the rule counts. -/
def Obligations.EveryOtherWordIsRejected : Prop :=
  (∀ cmd : Cmd, (∀ i : Instr, encode i ≠ cmd) →
    ∃ code : RejectCode,
      code = (if opField cmd ≠ 0x01 then .errOp else if wfDesc (descField cmd) = false then .errDesc
        else .errNoKernel) ∧
      (opField cmd = 0x01 → wfDesc (descField cmd) = true →
        ewcField (descField cmd) = 3 ∧ (cmd = 0x0118 ∨ cmd = 0x0119 ∨ cmd = 0x0138 ∨ cmd = 0x0139)) ∧
      ∀ s : State, s.req.valid = true → s.req.cmd = cmd →
        step s = .next { req := s.req, rsp := rejectWith code 0 }) ∧
  countWords (fun d => d == .illegal .errOp) = 65280 ∧
  countWords (fun d => d == .illegal .errDesc) = 240 ∧
  countWords (fun d => d == .illegal .errNoKernel) = 4 ∧
  countWords (fun d => d.isLegal) = 12

/-- The dispatch table of R21: twelve entries, one per instruction, no two for one descriptor, each satisfying the
invariant of R19 and none with 64-bit elements; and the lookup finds exactly the instruction of a descriptor. -/
def Obligations.DispatchTableSelectsOneEntry : Prop :=
  dispatchTable.length = 12 ∧ (dispatchTable.map (·.descriptor)).Nodup ∧
  (∀ e ∈ dispatchTable, e.descriptor.wf = true ∧ e.descriptor.lanes.elementWidthBits ≠ 64) ∧
  (∀ (op : Operation) (d : LaneDescriptor) (i : Instr), lookup op d = some i ↔ i.descriptor = d)

/-! ### The lane kernel -/

/-- R70: every lane of the result denotes the floor of the half-sum, and exactly one pattern denotes it; for every element
width and lane count that fit the bus. -/
def Obligations.LaneOfResultIsFloorOfHalfSum : Prop :=
  (∀ (sgn : Bool) (W N : Nat) (a b : Data) (i : Nat), W * N ≤ 128 → i < N →
    laneVal sgn (lane W (haddVec sgn W N a b) i)
      = floorHalf (laneVal sgn (lane W a i) + laneVal sgn (lane W b i))) ∧
  (∀ (sgn : Bool) (W : Nat) (x y : BitVec W),
    laneVal sgn (haddVal sgn x y) = floorHalf (laneVal sgn x + laneVal sgn y) ∧
    ∀ p : BitVec W, laneVal sgn p = floorHalf (laneVal sgn x + laneVal sgn y) → p = haddVal sgn x y)

/-- R71: the kernel by widening, shifting and narrowing equals the kernel by value at every width and signedness, and
any accumulator of at least `W + 1` bits gives the same result (the spec derives both sentences from R70, R72, R73). -/
def Obligations.WidenedKernelEqualsValueKernel : Prop :=
  ∀ (sgn : Bool) (W : Nat) (x y : BitVec W),
    haddLane sgn x y = widenedHalf sgn x y ∧
    haddLane sgn x y = haddVal sgn x y ∧
    ∀ n : Nat, W + 1 ≤ n → haddLaneIn n sgn x y = haddLane sgn x y

/-- R72: an unsigned sum fits in `W + 1` bits and the logical shift halves it, rounding down. -/
def Obligations.UnsignedSumFitsAndLogicalShiftFloors : Prop :=
  ∀ (W : Nat) (x y : BitVec W),
    (wideSum false (W + 1) x y).toNat = x.toNat + y.toNat ∧
    x.toNat + y.toNat ≤ 2 ^ (W + 1) - 2 ∧
    ((wideSum false (W + 1) x y) >>> 1).toNat = (x.toNat + y.toNat) / 2 ∧
    (x.toNat + y.toNat) / 2 ≤ 2 ^ W - 1 ∧
    (haddLane false x y).toNat = (x.toNat + y.toNat) / 2

/-- R73: a signed sum fits in `W + 1` bits two's complement and the arithmetic shift gives the floor of its half, which
for an odd negative sum is one less than truncation toward zero gives. -/
def Obligations.SignedSumFitsAndArithmeticShiftFloors : Prop :=
  (∀ (W : Nat) (x y : BitVec W), 0 < W →
    (wideSum true (W + 1) x y).toInt = x.toInt + y.toInt ∧
    -2 ^ W ≤ x.toInt + y.toInt ∧ x.toInt + y.toInt ≤ 2 ^ W - 2 ∧
    ((wideSum true (W + 1) x y).sshiftRight 1).toInt = floorHalf (x.toInt + y.toInt) ∧
    -2 ^ (W - 1) ≤ floorHalf (x.toInt + y.toInt) ∧ floorHalf (x.toInt + y.toInt) ≤ 2 ^ (W - 1) - 1 ∧
    (haddLane true x y).toInt = floorHalf (x.toInt + y.toInt) ∧
    (x.toInt + y.toInt < 0 → (x.toInt + y.toInt) % 2 = 1 →
      (haddLane true x y).toInt = (x.toInt + y.toInt).tdiv 2 - 1)) ∧
  haddLane true (0xFD : BitVec 8) 0xFE = 0xFD ∧ (0xFD : BitVec 8).toInt = -3

/-- R75 (the spec derives it from R71): the four forms of the lane kernel agree at every width, for signed and unsigned
lanes. -/
def Obligations.FourFormsOfLaneKernelAgree : Prop :=
  ∀ (sgn : Bool) (W : Nat) (x y : BitVec W),
    haddLane sgn x y = haddLaneBySumBits sgn x y ∧
    haddLane sgn x y = haddLaneByCarry sgn x y ∧
    haddLane sgn x y = haddLaneByAndXor sgn x y

/-- R74: the extremes overflow the lane's own width at every width, the 32-bit kernel adds in 33 bits, and a model that
wraps is told apart by the rule's own example. -/
def Obligations.AccumulatorIsWiderThanTheLane : Prop :=
  (∀ W : Nat, 0 < W →
    typeMax false W < 2 * typeMax false W ∧ 2 * typeMin true W < typeMin true W) ∧
  (∀ (sgn : Bool) (W : Nat) (x y : BitVec W), 0 < W →
    laneVal sgn (wideSum sgn (W + 1) x y) = laneVal sgn x + laneVal sgn y ∧
    haddLane sgn x y = (shiftRightOne sgn (wideSum sgn (W + 1) x y)).setWidth W) ∧
  (∀ s : State, s.req.lhsTag = 0x11 → s.req.rhsTag = 0x11 → lane 32 s.req.lhsData 0 = 0xFFFFFFFF →
    lane 32 s.req.rhsData 0 = 0xFFFFFFFF →
    ∃ t, exec .haddU32 s = .next t ∧ t.rsp.status = .ok ∧ lane 32 t.rsp.data 0 = 0xFFFFFFFF) ∧
  wrappedHalf false (0xFFFFFFFF : BitVec 32) 0xFFFFFFFF = 0x7FFFFFFF

/-- R97 (derived by the spec from R70 and R77): adding modulo `2^W` before the shift gives the kernel's result exactly
when the true sum fits in the lane's type; and halving add is not associative. -/
def Obligations.WrappedKernelDiffersExactlyOnOverflow : Prop :=
  (∀ (sgn : Bool) (W : Nat) (x y : BitVec W), 0 < W →
    (wrappedHalf sgn x y = haddLane sgn x y ↔
      typeMin sgn W ≤ laneVal sgn x + laneVal sgn y ∧ laneVal sgn x + laneVal sgn y ≤ typeMax sgn W)) ∧
  haddLane false (haddLane false (0 : BitVec 8) 0) 4 = 2 ∧ haddLane false (0 : BitVec 8) (haddLane false 0 4) = 1

/-- R96 (derived by the spec from R73): floor and truncation toward zero differ exactly on odd negative sums, which
need signed lanes; there the result is `(A + B - 1) / 2`, one below the truncated value. -/
def Obligations.FloorAndTruncationDifferOnOddNegativeSums : Prop :=
  (∀ (sgn : Bool) (W : Nat) (x y : BitVec W),
    let sum := laneVal sgn x + laneVal sgn y
    (laneVal sgn (haddLane sgn x y) ≠ sum.tdiv 2 ↔ sum < 0 ∧ sum % 2 = 1) ∧
    (sum < 0 → sum % 2 = 1 → sgn = true ∧ 2 * laneVal sgn (haddLane sgn x y) = sum - 1 ∧
      laneVal sgn (haddLane sgn x y) = sum.tdiv 2 - 1)) ∧
  haddLane true (3 : BitVec 8) 2 = 2 ∧ haddLane true (-3 : BitVec 8) (-2) = -3

/-- R77: every result lane lies between its operands' lanes and in the range of the type, and every instruction
completes on all operand values. -/
def Obligations.ResultLiesBetweenOperands : Prop :=
  (∀ (sgn : Bool) (W : Nat) (x y : BitVec W),
    min (laneVal sgn x) (laneVal sgn y) ≤ laneVal sgn (haddLane sgn x y) ∧
    laneVal sgn (haddLane sgn x y) ≤ max (laneVal sgn x) (laneVal sgn y)) ∧
  (∀ (sgn : Bool) (W : Nat) (x y : BitVec W), 0 < W →
    typeMin sgn W ≤ laneVal sgn (haddLane sgn x y) ∧ laneVal sgn (haddLane sgn x y) ≤ typeMax sgn W) ∧
  (∀ (i : Instr) (s : State), s.req.lhsTag = descField (encode i) → s.req.rhsTag = descField (encode i) →
    ∃ t, exec i s = .next t ∧ t.rsp.status = .ok)

/-! ### Laws of the vector kernel -/

/-- R79: halving add commutes, as a kernel and as an instruction: swapping the operands of a request gives the same
response. -/
def Obligations.HalvingAddCommutes : Prop :=
  (∀ (sgn : Bool) (W N : Nat) (a b : Data), haddVec sgn W N a b = haddVec sgn W N b a) ∧
  (∀ (i : Instr) (s : State), s.req.lhsTag = descField (encode i) → s.req.rhsTag = descField (encode i) →
    ∃ r : Response, exec i s = .next { req := s.req, rsp := r } ∧
      exec i (swapOperands s) = .next { req := (swapOperands s).req, rsp := r } ∧ r.status = .ok)

/-- R80: the extremes are fixed points, at every width as a kernel and for every instruction as a result. -/
def Obligations.ExtremesAreFixedPoints : Prop :=
  (∀ (W N : Nat), W * N ≤ 128 →
    haddVec false W N (splat N (BitVec.allOnes W)) (splat N (BitVec.allOnes W)) = splat N (BitVec.allOnes W) ∧
    haddVec true W N (splat N (BitVec.intMin W)) (splat N (BitVec.intMin W)) = splat N (BitVec.intMin W)) ∧
  (∀ (i : Instr) (s : State), s.req.lhsTag = descField (encode i) → s.req.rhsTag = descField (encode i) →
    let d := i.descriptor
    let extreme : BitVec d.elementWidthBits :=
      if d.isSigned then BitVec.intMin d.elementWidthBits else BitVec.allOnes d.elementWidthBits
    s.req.lhsData = splat d.laneCount extreme → s.req.rhsData = splat d.laneCount extreme →
    laneVal d.isSigned extreme
        = (if d.isSigned then typeMin true d.elementWidthBits else typeMax false d.elementWidthBits) ∧
    exec i s = .next { req := s.req, rsp := okWith (descField (encode i)) (splat d.laneCount extreme) })

/-- R95 (derived by the spec from R70): halving add of a vector with itself is the vector, and with zero it is the
floor of each half. -/
def Obligations.SameVectorIsFixedPoint : Prop :=
  ∀ (sgn : Bool) (W N : Nat) (a : Data),
    haddVec sgn W N a a = vectorImage (W * N) a ∧
    (W * N ≤ 128 → ∀ i, i < N →
      laneVal sgn (lane W (haddVec sgn W N a 0) i) = floorHalf (laneVal sgn (lane W a i)))

/-- R81: a result lane depends on the operands' lanes of the same index only, so changing one lane changes no other;
in every instruction. -/
def Obligations.LanesAreIndependent : Prop :=
  ∀ (i : Instr) (s s' : State) (j : Nat),
    let d := i.descriptor
    let W := d.elementWidthBits
    s.req.lhsTag = descField (encode i) → s.req.rhsTag = descField (encode i) →
    s'.req.lhsTag = descField (encode i) → s'.req.rhsTag = descField (encode i) → j < d.laneCount →
    lane W s.req.lhsData j = lane W s'.req.lhsData j → lane W s.req.rhsData j = lane W s'.req.rhsData j →
    ∃ t t', exec i s = .next t ∧ exec i s' = .next t' ∧ t.rsp.status = .ok ∧ t'.rsp.status = .ok ∧
      lane W t.rsp.data j = lane W t'.rsp.data j

/-- R82: the wide kernel is the narrow kernel on each half, for every lane shape; and each wide instruction's result is
the concatenation of its narrow sibling's results on the low halves and on the high halves. -/
def Obligations.WideIsTwoNarrowHalves : Prop :=
  (∀ (sgn : Bool) (W N : Nat), W * N = 64 → HalvesAgree sgn W N) ∧
  (∀ p ∈ familyPairs, ∀ (a b : PortVector) (s : State),
    a.hasShape p.1.descriptor = true → b.hasShape p.1.descriptor = true →
    ∃ al ah bl bh rl rh r : PortVector,
      lo? p.1.descriptor a = some al ∧ hi? p.1.descriptor a = some ah ∧
      lo? p.1.descriptor b = some bl ∧ hi? p.1.descriptor b = some bh ∧
      resultOf p.2 al bl s = some rl ∧ resultOf p.2 ah bh s = some rh ∧
      resultOf p.1 a b s = some r ∧ cat? p.2.descriptor rl rh = some r)

/-- R105: the six lane arrangements at 128 bits, selected by `cmd[5:0]` and masked to 64 bits for a narrow family, give
every instruction's result. -/
def Obligations.MultiplexerViewAgrees : Prop :=
  ∀ (i : Instr) (s : State), s.req.lhsTag = descField (encode i) → s.req.rhsTag = descField (encode i) →
    ∃ t, exec i s = .next t ∧ t.rsp.status = .ok ∧
      muxData? ((encode i).extractLsb' 0 6) s.req.lhsData s.req.rhsData = some t.rsp.data

/-! ### The instruction rules R83 to R94, one statement per element type -/

/-- R83 and R89: `HADD.S8` and `HADDQ.S8`. -/
def Obligations.SignedByteInstructions : Prop :=
  InstructionRule .haddS8 0x0123 0x23 true 8 8 ∧ InstructionRule .haddqS8 0x0124 0x24 true 8 16 ∧
  HalvesAgree true 8 8 ∧
  haddLane true (-128 : BitVec 8) (-128) = -128 ∧ haddLane true (127 : BitVec 8) 127 = 127 ∧
  haddLane true (127 : BitVec 8) (-128) = -1 ∧
  Example true 8 8 0x9C6403FD01FF807F 0xE51B02FE0000807F 0xC03F02FD00FF807F
    [127, -128, -1, 1, -3, 3, 100, -100] [127, -128, 0, 0, -2, 2, 27, -27] [127, -128, -1, 0, -3, 2, 63, -64] ∧
  Example true 8 16 0xF709CE327F80FF009C6403FD01FF807F 0x0AF6CD33807FFF00E51B02FE0000807F
    0x00FFCD32FFFFFF00C03F02FD00FF807F
    [127, -128, -1, 1, -3, 3, 100, -100, 0, -1, -128, 127, 50, -50, 9, -9]
    [127, -128, 0, 0, -2, 2, 27, -27, 0, -1, 127, -128, 51, -51, -10, 10]
    [127, -128, -1, 0, -3, 2, 63, -64, 0, -1, -1, -1, 50, -51, -1, 0]

/-- R84 and R90: `HADD.S16` and `HADDQ.S16`. -/
def Obligations.SignedHalfwordInstructions : Prop :=
  InstructionRule .haddS16 0x012A 0x2A true 16 4 ∧ InstructionRule .haddqS16 0x012B 0x2B true 16 8 ∧
  HalvesAgree true 16 4 ∧
  haddLane true (-32768 : BitVec 16) (-32768) = -32768 ∧ haddLane true (32767 : BitVec 16) 32767 = 32767 ∧
  haddLane true (32767 : BitVec 16) (-32768) = -1 ∧
  Example true 16 4 0xFFFB0005FFF6000A 0xFFFD0003FFFC0004 0xFFFC0004FFF90007
    [10, -10, 5, -5] [4, -4, 3, -3] [7, -7, 4, -4] ∧
  Example true 16 8 0x0001FFFF80007FFFFFFB0005FFF6000A 0x0000000080007FFFFFFD0003FFFC0004
    0x0000FFFF80007FFFFFFC0004FFF90007
    [10, -10, 5, -5, 32767, -32768, -1, 1] [4, -4, 3, -3, 32767, -32768, 0, 0]
    [7, -7, 4, -4, 32767, -32768, -1, 0]

/-- R85 and R91: `HADD.S32` and `HADDQ.S32`, computed in 33 bits. -/
def Obligations.SignedWordInstructions : Prop :=
  InstructionRule .haddS32 0x0131 0x31 true 32 2 ∧ InstructionRule .haddqS32 0x0132 0x32 true 32 4 ∧
  HalvesAgree true 32 2 ∧
  haddLane true (-2147483648 : BitVec 32) (-2147483648) = -2147483648 ∧
  haddLane true (2147483647 : BitVec 32) 2147483647 = 2147483647 ∧
  haddLane true (2147483647 : BitVec 32) 1 = 1073741824 ∧
  Example true 32 2 0x800000007FFFFFFF 0x8000000000000001 0x8000000040000000
    [2147483647, -2147483648] [1, -2147483648] [1073741824, -2147483648] ∧
  Example true 32 4 0x00000005FFFFFFFB800000007FFFFFFF 0x00000002FFFFFFFE8000000000000001
    0x00000003FFFFFFFC8000000040000000
    [2147483647, -2147483648, -5, 5] [1, -2147483648, -2, 2] [1073741824, -2147483648, -4, 3]

/-- R86 and R92: `HADD.U8` and `HADDQ.U8`. -/
def Obligations.UnsignedByteInstructions : Prop :=
  InstructionRule .haddU8 0x0103 0x03 false 8 8 ∧ InstructionRule .haddqU8 0x0104 0x04 false 8 16 ∧
  HalvesAgree false 8 8 ∧
  haddLane false (255 : BitVec 8) 255 = 255 ∧ haddLane false (255 : BitVec 8) 0 = 127 ∧
  haddLane false (1 : BitVec 8) 0 = 0 ∧ haddLane false (128 : BitVec 8) 128 = 128 ∧
  Example false 8 8 0x800764C80001FFFF 0x80086564000000FF 0x8007649600007FFF
    [255, 255, 1, 0, 200, 100, 7, 128] [255, 0, 0, 0, 100, 101, 8, 128] [255, 127, 0, 0, 150, 100, 7, 128] ∧
  Example false 8 16 0x634020100302FDFE800764C80001FFFF 0x00411F110402FAFF80086564000000FF
    0x31401F100302FBFE8007649600007FFF
    [255, 255, 1, 0, 200, 100, 7, 128, 254, 253, 2, 3, 16, 32, 64, 99]
    [255, 0, 0, 0, 100, 101, 8, 128, 255, 250, 2, 4, 17, 31, 65, 0]
    [255, 127, 0, 0, 150, 100, 7, 128, 254, 251, 2, 3, 16, 31, 64, 49]

/-- R87 and R93: `HADD.U16` and `HADDQ.U16`. -/
def Obligations.UnsignedHalfwordInstructions : Prop :=
  InstructionRule .haddU16 0x010A 0x0A false 16 4 ∧ InstructionRule .haddqU16 0x010B 0x0B false 16 8 ∧
  HalvesAgree false 16 4 ∧
  haddLane false (65535 : BitVec 16) 65535 = 65535 ∧ haddLane false (65535 : BitVec 16) 0 = 32767 ∧
  Example false 16 4 0x9C400001FFFFFFFF 0x753000020000FFFF 0x88B800017FFFFFFF
    [65535, 65535, 1, 40000] [65535, 0, 2, 30000] [65535, 32767, 1, 35000] ∧
  Example false 16 8 0x03E80100303900009C400001FFFFFFFF 0x07D100FFD4310000753000020000FFFF
    0x05DC00FF8235000088B800017FFFFFFF
    [65535, 65535, 1, 40000, 0, 12345, 256, 1000] [65535, 0, 2, 30000, 0, 54321, 255, 2001]
    [65535, 32767, 1, 35000, 0, 33333, 255, 1500]

/-- R88 and R94: `HADD.U32` and `HADDQ.U32`, computed in 33 bits. -/
def Obligations.UnsignedWordInstructions : Prop :=
  InstructionRule .haddU32 0x0111 0x11 false 32 2 ∧ InstructionRule .haddqU32 0x0112 0x12 false 32 4 ∧
  HalvesAgree false 32 2 ∧
  haddLane false (4294967295 : BitVec 32) 4294967295 = 4294967295 ∧
  haddLane false (4294967295 : BitVec 32) 1 = 2147483648 ∧
  Example false 32 2 0xFFFFFFFFFFFFFFFF 0x00000001FFFFFFFF 0x80000000FFFFFFFF
    [4294967295, 4294967295] [4294967295, 1] [4294967295, 2147483648] ∧
  Example false 32 4 0xB2D05E0000000000FFFFFFFFFFFFFFFF 0x773594010000000100000001FFFFFFFF
    0x9502F9000000000080000000FFFFFFFF
    [4294967295, 4294967295, 0, 3000000000] [4294967295, 1, 1, 2000000001]
    [4294967295, 2147483648, 0, 2500000000]

/-! ### The transaction -/

/-- A step runs the instruction its command word decodes to; nothing is added around it. -/
def Obligations.StepRunsDecodedInstruction : Prop :=
  ∀ (s : State) (i : Instr), s.req.valid = true → decode s.req.cmd = .legal i → step s = exec i s

/-- R24 and R99: a step is the evaluation of the transaction procedure on the request alone; it completes on every
state, and the request signals stay the host's. With no request every response signal is 0. -/
def Obligations.StepMeetsTransactionProcedure : Prop :=
  ∀ s : State,
    (s.req.valid = true → step s = .next { req := s.req, rsp := applyProcedure s.req }) ∧
    (s.req.valid = false → step s = .next { req := s.req, rsp := zeros })

/-- R104: with the tags of its descriptor an instruction answers OK, its own descriptor byte, and the vector kernel's
image at its descriptor; a narrow result has zeros above, and the upper bits of narrow operands have no influence. -/
def Obligations.EveryInstructionCompletes : Prop :=
  ∀ (i : Instr) (s : State), s.req.lhsTag = descField (encode i) → s.req.rhsTag = descField (encode i) →
    let d := i.descriptor
    let data := haddVec d.isSigned d.elementWidthBits d.laneCount s.req.lhsData s.req.rhsData
    exec i s = .next { req := s.req, rsp := okWith (descField (encode i)) data } ∧
    (d.family? = some .narrow →
      data.extractLsb' 64 64 = 0 ∧
      data = haddVec d.isSigned d.elementWidthBits d.laneCount (vectorImage 64 s.req.lhsData)
        (vectorImage 64 s.req.rhsData))

/-- The frame of every instruction: exec answers a next state in which the request signals are as before, and the
response is a result or a shape reject, with `rsp_valid = 1`. The state holds nothing else (R9). -/
def Obligations.ExecChangesOnlyTheResponse : Prop :=
  ∀ (i : Instr) (s : State), ∃ t : State, exec i s = .next t ∧ t.req = s.req ∧ t.rsp.valid = true ∧
    (t.rsp.status = .ok ∨ t.rsp.status = .reject .errShape)

/-- Every transaction completes: a step always answers a next state, with the request signals as before and
`rsp_valid` equal to `req_valid` (R23); none hangs (R136, derived by the spec). -/
def Obligations.EveryStepCompletes : Prop :=
  ∀ s : State, ∃ t : State, step s = .next t ∧ t.req = s.req ∧ t.rsp.valid = s.req.valid

/-- R108: with `req_valid = 0` the other request signals are ignored and every response signal is 0, and an idle period
of any length before a transaction changes neither its response nor the state it leaves. -/
def Obligations.IdleDrivesZerosAndChangesNothing : Prop :=
  (∀ s : State, s.req.valid = false →
    step s = .next { req := s.req, rsp := zeros } ∧ zeros.statusBits = 0) ∧
  (∀ (idles : List Request) (q : Request) (s : State), (∀ p ∈ idles, p.valid = false) →
    ∃ rs r t, serveAll (idles ++ [q]) s = some (rs ++ [r], t) ∧ serveAll [q] s = some ([r], t))

/-! ### Rejects -/

/-- R111, R112, R113: the three rejects of an illegal word and their causes, whatever the tags and the data are. -/
def Obligations.IllegalWordsRaiseTheirCodes : Prop :=
  ∀ s : State, s.req.valid = true →
    let desc := descField s.req.cmd
    let d := descriptorFields desc
    let malformed := rsvField desc ≠ 0 ∨ 4 < (lcField desc).toNat ∨
      (d.laneCount * d.elementWidthBits ≠ 64 ∧ d.laneCount * d.elementWidthBits ≠ 128)
    (opField s.req.cmd ≠ 0x01 → step s = .next { req := s.req, rsp := rejectWith .errOp 0 }) ∧
    (opField s.req.cmd = 0x01 → malformed → step s = .next { req := s.req, rsp := rejectWith .errDesc 0 }) ∧
    (opField s.req.cmd = 0x01 → ¬ malformed → d.elementWidthBits = 64 →
      step s = .next { req := s.req, rsp := rejectWith .errNoKernel 0 } ∧
      (desc = 0x18 ∨ desc = 0x19 ∨ desc = 0x38 ∨ desc = 0x39))

/-- R114: a legal word with a wrong operand tag is rejected with `ERR_SHAPE`; bit 0 of the information says that the
left tag differs, bit 1 that the right one does, and at least one is set. -/
def Obligations.ShapeMismatchIsRejected : Prop :=
  ∀ (s : State) (i : Instr), s.req.valid = true → decode s.req.cmd = .legal i →
    s.req.lhsTag ≠ descField s.req.cmd ∨ s.req.rhsTag ≠ descField s.req.cmd →
    ∃ info : Info, step s = .next { req := s.req, rsp := rejectWith .errShape info } ∧ info ≠ 0 ∧
      (info.getLsbD 0 = true ↔ s.req.lhsTag ≠ descField s.req.cmd) ∧
      (info.getLsbD 1 = true ↔ s.req.rhsTag ≠ descField s.req.cmd)

/-- R110 and R116: the status code of every response is the first violation in the order `ERR_OP`, `ERR_DESC`,
`ERR_NOKERNEL`, `ERR_SHAPE`, and 0 without one; the information bits are 0 but for `ERR_SHAPE`; codes 5 to 7 are never
produced. -/
def Obligations.FirstViolationIsReported : Prop :=
  ∀ s : State, s.req.valid = true →
    let desc := descField s.req.cmd
    ∃ t : State, step s = .next t ∧
      t.rsp.statusBits =
        (if opField s.req.cmd ≠ 0x01 then 1
         else if wfDesc desc = false then 2
         else if ewcField desc = 3 then 3
         else if s.req.lhsTag ≠ desc ∨ s.req.rhsTag ≠ desc then 4
         else 0) ∧
      t.rsp.info =
        (if t.rsp.statusBits = 4 then BitVec.ofBool (s.req.rhsTag != desc) ++ BitVec.ofBool (s.req.lhsTag != desc)
         else 0) ∧
      t.rsp.statusBits.toNat ≤ 4

/-- R115 and R117: a reject is the response of its own transaction: valid, with its code, zeros for tag and data, and
no result vector; it changes nothing else. -/
def Obligations.RejectCarriesNoResultAndSavesNothing : Prop :=
  ∀ (s t : State) (code : RejectCode), step s = .next t → t.rsp.status = .reject code →
    t = { req := s.req, rsp := rejectWith code t.rsp.info } ∧ t.rsp.vector? = none

/-- R109: no operand data value causes a reject or changes one: two requests that differ in operand data only get
responses with the same status, information and tag, and the same response if it is a reject. -/
def Obligations.OperandDataNeverDecidesAReject : Prop :=
  ∀ (p q : Request) (s : State), sameButData p q →
    ∃ t u : State, transact p s = .next t ∧ transact q s = .next u ∧
      t.rsp.valid = u.rsp.valid ∧ t.rsp.status = u.rsp.status ∧ t.rsp.info = u.rsp.info ∧ t.rsp.tag = u.rsp.tag ∧
      (t.rsp.status ≠ .ok → t.rsp = u.rsp)

/-- A request gets a result exactly when the host does what R131 asks (the rule is derived by the spec from R99): the
word is one of the twelve and both tags equal its low byte. -/
def Obligations.LegalRequestsAreTheOnesAnswered : Prop :=
  ∀ s : State, s.req.legal = true ↔ ∃ t : State, step s = .next t ∧ t.rsp.vector?.isSome = true

/-- R26: the bits `[127:64]` of narrow operands cannot change the response nor cause a reject, and those of a narrow
result are 0; a wide vector occupies all 128 bits. -/
def Obligations.NarrowUpperBitsAreIgnoredAndZero : Prop :=
  (∀ (i : Instr) (p q : Request) (s : State), i.descriptor.family? = some .narrow →
    decode p.cmd = .legal i → sameButData p q →
    p.lhsData.extractLsb' 0 64 = q.lhsData.extractLsb' 0 64 →
    p.rhsData.extractLsb' 0 64 = q.rhsData.extractLsb' 0 64 →
    ∃ t u : State, transact p s = .next t ∧ transact q s = .next u ∧ t.rsp = u.rsp ∧
      t.rsp.data.extractLsb' 64 64 = 0) ∧
  (∀ i : Instr, i.descriptor.family? = some .wide → i.descriptor.laneCount * i.descriptor.elementWidthBits = 128)

/-! ### Nothing is retained -/

/-- R106: whatever requests came before and whatever state the machine was in, the same request leaves the same
response and the same state. -/
def Obligations.NothingIsRetained : Prop :=
  ∀ (before before' : List Request) (q : Request) (s s' : State),
    ∃ rs rs' r t, serveAll (before ++ [q]) s = some (rs ++ [r], t) ∧
      serveAll (before' ++ [q]) s' = some (rs' ++ [r], t)

/-- R34: presenting one request any number of times gives one response every time, and the request signals stay as
they were. -/
def Obligations.RepeatedRequestRepeatsResponse : Prop :=
  ∀ (q : Request) (s : State) (n : Nat),
    ∃ t : State, serveAll (List.replicate n q) s = some (List.replicate n (responseTo q), t) ∧
      (0 < n → t = { req := q, rsp := responseTo q })

/-- R37: with any number of callers and any interleaving, every caller gets the function of its own requests; so two
schedules that agree on one caller's requests agree on its responses, whatever the others present. The callers are
served one after another, one request per step: "A model has one agent that takes one request per step; interleaving
the steps of several callers in any order gives every caller the same responses" (R42). That overlapped transactions
are not shown is the model's reading (DEDUCED, notes/assumptions/6.md). -/
def Obligations.CallersCannotObserveEachOther : Prop :=
  (∀ (caller : Nat) (sched : Schedule) (s : State),
    responsesTo caller sched s = some ((requestsOf caller sched).map responseTo)) ∧
  (∀ (caller : Nat) (sched sched' : Schedule) (s s' : State),
    requestsOf caller sched = requestsOf caller sched' →
    responsesTo caller sched s = responsesTo caller sched' s')

/-- R133: a result may be an operand of the very next transaction, on either side or both, with the tag it came with. -/
def Obligations.ResultCanBeNextOperand : Prop :=
  ∀ (i : Instr) (s : State), s.req.lhsTag = descField (encode i) → s.req.rhsTag = descField (encode i) →
    ∃ (t : State) (r : PortVector), exec i s = .next t ∧ t.rsp.vector? = some r ∧ r.tag = descField (encode i) ∧
      ∀ p : PortVector, p.tag = r.tag →
        (∃ u, transact (.call (encode i) r p) t = .next u ∧ u.rsp.status = .ok) ∧
        (∃ u, transact (.call (encode i) p r) t = .next u ∧ u.rsp.status = .ok) ∧
        (∃ u, transact (.call (encode i) r r) t = .next u ∧ u.rsp.status = .ok)

/-! ### Invariants -/

/-- Whatever the state before, a step leaves a response that is one of the three kinds the spec has (R23, R110, R115)
and is the function of the request signals beside it (R24); so both are invariants that every step keeps. -/
def Obligations.EveryStepLeavesALegalSettledResponse : Prop :=
  ∀ s t : State, step s = .next t → t.rsp.wf ∧ t.settled

/-- After reset every response signal is 0, which is settled and legal, and idling stays there (R29). That the request
port is idle after reset is the model's choice (notes/assumptions/2.md). -/
def Obligations.ResetIsIdleAndSettled : Prop :=
  State.reset.rsp = zeros ∧ State.reset.rsp.statusBits = 0 ∧ State.reset.rsp.wf ∧ State.reset.settled ∧
  step State.reset = .next State.reset

/-! ### The container and the typed view -/

/-- R61 and R62: a Lane Descriptor's vectors are built from exactly `N` values of its type; `pack` gives them the
descriptor's tag, each value in its lane and zeros above, and indexed read gives each value back; an integer outside
the type is not packed. -/
def Obligations.PackedLanesReadBack : Prop :=
  ∀ d : LaneDescriptor, d.wf = true →
    (∀ v : LaneVector d, ∃ p : PortVector, pack v = some p ∧ encodeDescriptor d = some p.tag ∧
      p.data = vectorImage d.vectorBits p.data ∧
      (∀ i : Fin d.laneCount, get? d p i = some (v.lane i)) ∧ unpack? d p = some v) ∧
    (∀ vs : List (BitVec d.elementWidthBits),
      (LaneVector.ofList? d vs).isSome = true ↔ vs.length = d.laneCount) ∧
    (∀ n : Int, match patternOfInt? d n with
      | some v => laneVal d.isSigned v = n
      | none => n < typeMin d.isSigned d.elementWidthBits ∨ typeMax d.isSigned d.elementWidthBits < n)

/-- R64: equality of two vectors of one shape is equality of all lane patterns, which is equality of the `N*W` low bits;
between vectors of another shape it is not defined. -/
def Obligations.VectorEqualityIsElementwise : Prop :=
  ∀ (d : LaneDescriptor) (a b : PortVector), d.wf = true →
    (a.hasShape d = true → b.hasShape d = true →
      ∃ e : Bool, veq? d a b = some e ∧
        (e = true ↔ ∀ i : Fin d.laneCount, get? d a i = get? d b i) ∧
        (e = true ↔ a.data.extractLsb' 0 d.vectorBits = b.data.extractLsb' 0 d.vectorBits)) ∧
    (a.hasShape d = false ∨ b.hasShape d = false → veq? d a b = none)

/-- R67, R68 and R69 (R69 is derived by the spec): lanes of the halves are the vector's lanes in index order; halves of
a concatenation are its parts, and a vector is the concatenation of its halves. -/
def Obligations.HalvesAndConcatenationAreInverse : Prop :=
  ∀ d : LaneDescriptor, d.wf = true → d.family? = some .narrow →
    let dq := doubleDescriptor d
    (∀ v : PortVector, v.hasShape dq = true →
      ∃ l h : PortVector, lo? dq v = some l ∧ hi? dq v = some h ∧ l.hasShape d = true ∧ h.hasShape d = true ∧
        (∀ i : Nat, i < d.laneCount →
          lane d.elementWidthBits l.data i = lane d.elementWidthBits v.data i ∧
          lane d.elementWidthBits h.data i = lane d.elementWidthBits v.data (d.laneCount + i)) ∧
        cat? d l h = some v) ∧
    (∀ x y : PortVector, x.hasShape d = true → y.hasShape d = true →
      ∃ v l h : PortVector, cat? d x y = some v ∧ v.hasShape dq = true ∧ lo? dq v = some l ∧ hi? dq v = some h ∧
        veq? d l x = some true ∧ veq? d h y = some true)

/-- The signal-level core refines the typed operation `apply` (R5, R98, R103): for any two vectors of one Lane
Descriptor, the request for halving-add on their images gets the image of the typed result, and `ERR_NOKERNEL` exactly
when the typed operation has no entry. -/
def Obligations.SignalsRefineTypedApply : Prop :=
  ∀ (d : LaneDescriptor) (a b : LaneVector d) (s : State), d.wf = true →
    ∃ (cmd : Cmd) (pa pb : PortVector) (t : State),
      encodeInstructionDescriptor { operation := .halvingAdd, lanes := d } = some cmd ∧
      pack a = some pa ∧ pack b = some pb ∧ transact (.call cmd pa pb) s = .next t ∧
      match applyTyped .halvingAdd a b with
      | some r => t.rsp.vector? = pack r ∧ t.rsp.status = .ok
      | none => t.rsp = rejectWith .errNoKernel 0
end

