-- ==== Sys2Proof/Laws/Operands.lean ====
section
/-! SUPPORT. What the lane operations do, bit by bit: reading a lane, setting one, packing many. Provers cite these
instead of unfolding shifts and masks. -/

namespace Sys2Proof.Machine

/-- The bits of a lane are the bits of its field. -/
@[simp] theorem lane_getLsbD (W : Nat) (d : Data) (i k : Nat) :
    (lane W d i).getLsbD k = (decide (k < W) && d.getLsbD (W * i + k)) := by
  simp [lane]

/-- Setting a lane writes its field and no other bit. -/
theorem setLane_getLsbD {W : Nat} (d : Data) (i : Nat) (v : BitVec W) {k : Nat} (hk : k < 128) :
    (setLane d i v).getLsbD k
      = if W * i ≤ k ∧ k < W * i + W then v.getLsbD (k - W * i) else d.getLsbD k := by
  simp only [setLane, laneMask, BitVec.getLsbD_or, BitVec.getLsbD_and, BitVec.getLsbD_not, BitVec.getLsbD_shiftLeft,
    BitVec.getLsbD_setWidth, BitVec.getLsbD_allOnes]
  by_cases hlo : W * i ≤ k
  · by_cases hhi : k < W * i + W
    · have h1 : k - W * i < 128 := by omega
      have h2 : k - W * i < W := by omega
      simp [hk, hlo, hhi, h1, h2, Nat.not_lt.mpr hlo]
    · have h2 : ¬ k - W * i < W := by omega
      have h3 : v.getLsbD (k - W * i) = false := BitVec.getLsbD_of_ge _ _ (by omega)
      simp [hk, hhi, h2, h3]
  · have h1 : k < W * i := by omega
    simp [hk, hlo, h1]

/-- Every bit of a packed image: the bit of its lane below `W*n`, 0 from there on. -/
theorem packLanes_getLsbD {W : Nat} (f : Nat → BitVec W) (n : Nat) {k : Nat} (hk : k < 128) :
    (packLanes f n).getLsbD k = (decide (k < W * n) && (f (k / W)).getLsbD (k % W)) := by
  induction n with
  | zero => simp [packLanes]
  | succ n ih =>
    rw [packLanes, setLane_getLsbD _ _ _ hk, ih]
    have hsucc : W * (n + 1) = W * n + W := Nat.mul_succ W n
    by_cases hin : W * n ≤ k ∧ k < W * n + W
    · have hdiv : k / W = n := by
        rw [Nat.div_eq_iff (by omega)]
        constructor
        · rw [Nat.mul_comm]; omega
        · rw [Nat.mul_comm]; omega
      have hmod : k % W = k - W * n := by rw [Nat.mod_eq_sub_mul_div, hdiv]
      have hlt : k < W * (n + 1) := by omega
      simp [hin, hdiv, hmod, hlt]
    · rw [if_neg hin]
      have : (k < W * (n + 1)) ↔ k < W * n := by omega
      simp [this]

/-- Reading a lane of a packed image gives what was packed there, for lanes that fit the bus. -/
theorem lane_packLanes {W : Nat} (f : Nat → BitVec W) {n i : Nat} (hi : i < n) (hfit : W * n ≤ 128) :
    lane W (packLanes f n) i = f i := by
  apply BitVec.eq_of_getLsbD_eq
  intro k hk
  have hle : W * i + W ≤ W * n := by
    rw [← Nat.mul_succ]; exact Nat.mul_le_mul_left W hi
  have hdiv : (W * i + k) / W = i := by
    rw [Nat.mul_add_div (by omega), Nat.div_eq_of_lt hk, Nat.add_zero]
  have hmod : (W * i + k) % W = k := by rw [Nat.mul_add_mod, Nat.mod_eq_of_lt hk]
  rw [lane_getLsbD, packLanes_getLsbD _ _ (by omega), hdiv, hmod]
  have : W * i + k < W * n := by omega
  simp [hk, this]

/-- Packing looks at the packed lanes only. -/
theorem packLanes_congr {W : Nat} {f g : Nat → BitVec W} {n : Nat} (h : ∀ i, i < n → f i = g i) :
    packLanes f n = packLanes g n := by
  induction n with
  | zero => rfl
  | succ n ih =>
    rw [packLanes, packLanes, h n (Nat.lt_succ_self n), ih fun i hi => h i (Nat.lt_succ_of_lt hi)]

/-- The bits of a vector's image: the bus image's below `n`, 0 from there on. -/
theorem vectorImage_getLsbD (n : Nat) (d : Data) (k : Nat) :
    (vectorImage n d).getLsbD k = (decide (k < 128) && (decide (k < n) && d.getLsbD k)) := by
  simp [vectorImage]

/-- Packing every lane of a bus image gives the vector's image. -/
theorem packLanes_lane (W n : Nat) (d : Data) : packLanes (lane W d) n = vectorImage (W * n) d := by
  apply BitVec.eq_of_getLsbD_eq
  intro k hk
  rw [packLanes_getLsbD _ _ hk, vectorImage_getLsbD]
  by_cases hlt : k < W * n
  · have hW : 0 < W := Nat.pos_of_ne_zero (by rintro rfl; simp at hlt)
    have hmod : k % W < W := Nat.mod_lt _ hW
    rw [lane_getLsbD, Nat.div_add_mod]
    simp only [hlt, hk, hmod, decide_true, Bool.true_and]
  · simp [hlt]

/-- A lane that fits a vector is the same in the vector's image. -/
theorem lane_vectorImage {W n i : Nat} (d : Data) (hin : W * i + W ≤ n) (hn : n ≤ 128) :
    lane W (vectorImage n d) i = lane W d i := by
  apply BitVec.eq_of_getLsbD_eq
  intro k hk
  have h1 : W * i + k < 128 := by omega
  have h2 : W * i + k < n := by omega
  rw [lane_getLsbD, lane_getLsbD, vectorImage_getLsbD]
  simp only [h1, h2, decide_true, Bool.true_and]

end Sys2Proof.Machine
end

