-- ==== Sys2Proof/Laws/Kernel.lean ====
section
/-! SUPPORT. Small lemmas of the kernel's definitions: the value of a lane, the primitives, and a lane of the vector
kernel's result. -/

namespace Sys2Proof.Machine

@[simp] theorem laneVal_signed {W : Nat} (v : BitVec W) : laneVal true v = v.toInt := rfl
@[simp] theorem laneVal_unsigned {W : Nat} (v : BitVec W) : laneVal false v = (v.toNat : Int) := rfl
@[simp] theorem widen_signed {W : Nat} (n : Nat) (v : BitVec W) : widen true n v = v.signExtend n := rfl
@[simp] theorem widen_unsigned {W : Nat} (n : Nat) (v : BitVec W) : widen false n v = v.setWidth n := rfl
@[simp] theorem shiftRightOne_signed {n : Nat} (v : BitVec n) : shiftRightOne true v = v.sshiftRight 1 := rfl
@[simp] theorem shiftRightOne_unsigned {n : Nat} (v : BitVec n) : shiftRightOne false v = v >>> 1 := rfl

/-- `floorHalf` is division by two rounded down: the form `omega` knows. -/
theorem floorHalf_eq (n : Int) : floorHalf n = n / 2 := by
  simp [floorHalf, Int.fdiv_eq_ediv_of_nonneg]

/-- A lane of the result is the lane kernel of the operands' lanes, for a shape that fits the bus. -/
theorem lane_haddVec (sgn : Bool) {W N i : Nat} (da db : Data) (hi : i < N) (hfit : W * N ≤ 128) :
    lane W (haddVec sgn W N da db) i = haddLane sgn (lane W da i) (lane W db i) :=
  lane_packLanes _ hi hfit

/-- Bits of the result: 0 at and above `N*W`. -/
theorem haddVec_getLsbD (sgn : Bool) (W N : Nat) (da db : Data) {k : Nat} (hk : k < 128) :
    (haddVec sgn W N da db).getLsbD k
      = (decide (k < W * N) && (haddLane sgn (lane W da (k / W)) (lane W db (k / W))).getLsbD (k % W)) :=
  packLanes_getLsbD _ _ hk

/-- The packed image of a vector, lane by lane. -/
theorem lane_pack_image {d : LaneDescriptor} (v : LaneVector d) {i : Nat} (hi : i < d.laneCount)
    (hfit : d.elementWidthBits * d.laneCount ≤ 128) :
    lane d.elementWidthBits (packLanes (fun k => v.lanes.getD k 0) d.laneCount) i = v.lanes.getD i 0 :=
  lane_packLanes _ hi hfit

end Sys2Proof.Machine
end

