-- ==== Sys2Proof/Laws/PerInstr.lean ====
section
/-! SUPPORT. Facts about every instruction as syntax, one lemma per constructor. Family `Shape`: the instruction's
descriptor satisfies the Lane Descriptor invariant and has no 64-bit elements, and its command word is the encoding of
that descriptor under the halving-add identifier. -/

namespace Sys2Proof.Laws.Shape

/-- The shape of an instruction is well formed and its word spells it (spec/10_state.md R19, spec/30_encoding.md R43,
R51). -/
def Statement (i : Instr) : Prop :=
  i.descriptor.wf = true ∧ i.descriptor.elementWidthBits ≠ 64 ∧
    encodeInstructionDescriptor { operation := .halvingAdd, lanes := i.descriptor } = some (encode i)

theorem haddS8 : Statement .haddS8 := by unfold Statement; decide
theorem haddS16 : Statement .haddS16 := by unfold Statement; decide
theorem haddS32 : Statement .haddS32 := by unfold Statement; decide
theorem haddU8 : Statement .haddU8 := by unfold Statement; decide
theorem haddU16 : Statement .haddU16 := by unfold Statement; decide
theorem haddU32 : Statement .haddU32 := by unfold Statement; decide
theorem haddqS8 : Statement .haddqS8 := by unfold Statement; decide
theorem haddqS16 : Statement .haddqS16 := by unfold Statement; decide
theorem haddqS32 : Statement .haddqS32 := by unfold Statement; decide
theorem haddqU8 : Statement .haddqU8 := by unfold Statement; decide
theorem haddqU16 : Statement .haddqU16 := by unfold Statement; decide
theorem haddqU32 : Statement .haddqU32 := by unfold Statement; decide

end Sys2Proof.Laws.Shape
end

