-- ==== Sys2Proof/Laws/State.lean ====
section
/-! SUPPORT. One lemma per field and update of the state, so that no proof unfolds a record update. -/

namespace Sys2Proof.Machine

@[simp] theorem State.present_req (q : Request) (s : State) : (s.present q).req = q := rfl
@[simp] theorem State.present_rsp (q : Request) (s : State) : (s.present q).rsp = s.rsp := rfl
@[simp] theorem State.driveResponse_req (r : Response) (s : State) : (s.driveResponse r).req = s.req := rfl
@[simp] theorem State.driveResponse_rsp (r : Response) (s : State) : (s.driveResponse r).rsp = r := rfl

@[simp] theorem State.present_present (p q : Request) (s : State) : (s.present p).present q = s.present q := rfl
@[simp] theorem State.driveResponse_driveResponse (p r : Response) (s : State) :
    (s.driveResponse p).driveResponse r = s.driveResponse r := rfl

@[simp] theorem State.reject_req (c : RejectCode) (f : Info) (s : State) : (s.reject c f).req = s.req := rfl
@[simp] theorem State.reject_rsp (c : RejectCode) (f : Info) (s : State) :
    (s.reject c f).rsp = .rejected c f := rfl
@[simp] theorem State.accept_req (t : Tag) (d : Data) (s : State) : (s.accept t d).req = s.req := rfl
@[simp] theorem State.accept_rsp (t : Tag) (d : Data) (s : State) : (s.accept t d).rsp = .accepted t d := rfl
@[simp] theorem State.idle_req (s : State) : s.idle.req = s.req := rfl
@[simp] theorem State.idle_rsp (s : State) : s.idle.rsp = .idle := rfl
@[simp] theorem State.presentCommand_rsp (c : Cmd) (s : State) : (s.presentCommand c).rsp = s.rsp := rfl

@[simp] theorem State.reset_rsp : State.reset.rsp = .idle := rfl

/-- Two states are equal when their ports are. -/
theorem State.ext_ports {s t : State} (hq : s.req = t.req) (hr : s.rsp = t.rsp) : s = t := by
  cases s; cases t; simp_all

end Sys2Proof.Machine
end

