-- ==== Sys2Proof/Laws/Step.lean ====
section
/-! SUPPORT. What the shared operation of the instructions can do, what each instruction instantiates it with, and what
a step can do. -/

namespace Sys2Proof.Machine

/-- With both tags right, an instruction answers the kernel's result. -/
theorem runKernel_of_match {desc : Tag} {s : State} (sgn : Bool) (W N : Nat)
    (hl : s.req.lhsTag = desc) (hr : s.req.rhsTag = desc) :
    runKernel desc sgn W N s = .next (s.accept desc (haddVec sgn W N s.req.lhsData s.req.rhsData)) := by
  simp [runKernel, lhsMismatch, rhsMismatch, hl, hr]

/-- With a tag wrong, it rejects and says which. -/
theorem runKernel_of_mismatch {desc : Tag} {s : State} (sgn : Bool) (W N : Nat)
    (h : s.req.lhsTag ≠ desc ∨ s.req.rhsTag ≠ desc) :
    runKernel desc sgn W N s
      = .next (s.reject .errShape (mismatchInfo (lhsMismatch desc s.req) (rhsMismatch desc s.req))) := by
  have hm : (lhsMismatch desc s.req || rhsMismatch desc s.req) = true := by
    simpa [lhsMismatch, rhsMismatch] using h
  exact if_pos hm

/-- Everything the shared operation of the instructions can do: it answers a next state that differs in the response
only, which is a result or a shape reject. -/
theorem runKernel_cases (desc : Tag) (sgn : Bool) (W N : Nat) (s : State) :
    (s.req.lhsTag = desc ∧ s.req.rhsTag = desc ∧
      runKernel desc sgn W N s = .next (s.accept desc (haddVec sgn W N s.req.lhsData s.req.rhsData))) ∨
    ((s.req.lhsTag ≠ desc ∨ s.req.rhsTag ≠ desc) ∧
      runKernel desc sgn W N s
        = .next (s.reject .errShape (mismatchInfo (lhsMismatch desc s.req) (rhsMismatch desc s.req)))) := by
  by_cases h : s.req.lhsTag = desc ∧ s.req.rhsTag = desc
  · exact .inl ⟨h.1, h.2, runKernel_of_match sgn W N h.1 h.2⟩
  · have h' : s.req.lhsTag ≠ desc ∨ s.req.rhsTag ≠ desc := by
      by_cases hl : s.req.lhsTag = desc
      · exact .inr fun hr => h ⟨hl, hr⟩
      · exact .inl hl
    exact .inr ⟨h', runKernel_of_mismatch sgn W N h'⟩

/-- Each instruction is the shared operation at its own descriptor byte and descriptor. -/
theorem exec_eq_runKernel (i : Instr) (s : State) :
    exec i s = runKernel (descField (encode i)) i.descriptor.isSigned i.descriptor.elementWidthBits
      i.descriptor.laneCount s := by
  cases i <;> rfl

theorem command?_of_valid {s : State} (h : s.req.valid = true) : s.command? = some s.req.cmd := by
  simp [State.command?, h]

theorem command?_of_idle {s : State} (h : s.req.valid = false) : s.command? = none := by
  simp [State.command?, h]

/-- Everything a step can do: drive zeros when no request is presented, reject an illegal word, run a legal one. -/
theorem step_cases (s : State) :
    (s.req.valid = false ∧ step s = .next s.idle) ∨
    (∃ c, s.req.valid = true ∧ decode s.req.cmd = .illegal c ∧ step s = .next (s.reject c 0)) ∨
    (∃ i, s.req.valid = true ∧ decode s.req.cmd = .legal i ∧ step s = exec i s) := by
  cases hv : s.req.valid with
  | false => exact .inl ⟨rfl, by simp [step, command?_of_idle hv]⟩
  | true =>
    cases hd : decode s.req.cmd with
    | illegal c => exact .inr (.inl ⟨c, rfl, rfl, by simp [step, command?_of_valid hv, hd]⟩)
    | legal i => exact .inr (.inr ⟨i, rfl, rfl, by simp [step, command?_of_valid hv, hd]⟩)

@[simp] theorem serveAll_nil (s : State) : serveAll [] s = some ([], s) := rfl

/-- One served request is one step. -/
theorem serveAll_cons_of_next {q : Request} {s t : State} (qs : List Request) (h : transact q s = .next t) :
    serveAll (q :: qs) s = (serveAll qs t).map fun p => (t.rsp :: p.1, p.2) := by
  simp [serveAll, h]

end Sys2Proof.Machine
end

