-- ==== Sys2Proof/Tests/Slice0.lean ====
section
/-! SUPPORT. The model's own tests: each check of WellFormed refusing an ill-formed term, every instruction's word
written out from spec/30_encoding.md R51, one transaction per instruction from spec/95_test_vectors.md, the rejects of
its section 2.7, and for every statement with hypotheses a witness that meets them. Expected values are the spec's. -/

namespace Sys2Proof.Tests

open Sys2Proof Sys2Proof.Machine Sys2Proof.Claims

/-- A request of the host: `cmd`, left tag and data, right tag and data; the response port holds a reject of an earlier
transaction, which must not matter (R106). -/
def requesting (cmd : Cmd) (lt : Tag) (a : Data) (rt : Tag) (b : Data) : State :=
  { req := { valid := true, cmd := cmd, lhsTag := lt, lhsData := a, rhsTag := rt, rhsData := b }
    rsp := rejectWith .errShape 3 }

/-- The halving-add request whose descriptor byte and tags are all `desc`. -/
def calling (desc : Tag) (a b : Data) : State := requesting (0x01#8 ++ desc) desc a desc b

/-- That request with its result on the response port. -/
def answering (desc : Tag) (a b r : Data) : State := { calling desc a b with rsp := okWith desc r }

/-- What `step` leaves on the response port. -/
def stepResponse (s : State) : Option Response :=
  match step s with
  | .next t => some t.rsp
  | .fault _ => none
  | .refused _ => none

/-! ### WellFormed and the legality checks refuse ill-formed terms -/

/-- 4-bit elements are no element type, although 16 of them make 64 bits (R16). -/
theorem test_wf_refuses_width :
    LaneDescriptor.wf { elementWidthBits := 4, isSigned := false, laneCount := 16 } = false := by decide

/-- The one-lane int8 shape of the source's examples violates the invariant (C2). -/
theorem test_wf_refuses_product :
    LaneDescriptor.wf { elementWidthBits := 8, isSigned := true, laneCount := 1 } = false := by decide

theorem test_wf_admits_64_bit_elements :
    LaneDescriptor.wf { elementWidthBits := 64, isSigned := true, laneCount := 2 } = true := by decide

theorem test_instruction_descriptor_wf_refuses :
    InstructionDescriptor.wf
      { operation := .halvingAdd, lanes := { elementWidthBits := 16, isSigned := true, laneCount := 16 } } = false := by
  decide

/-- E5, E6, E7, E9, E10: reserved bits, lane count code 5, 32 bits, 256 bits. -/
theorem test_wfDesc_refuses :
    wfDesc 0x63 = false ∧ wfDesc 0xA3 = false ∧ wfDesc 0x25 = false ∧ wfDesc 0x22 = false ∧ wfDesc 0x2C = false := by
  decide

theorem test_request_legal_refuses :
    (requesting 0x0139 0x39 0 0x39 0).req.legal = false ∧ (requesting 0x0123 0x03 0 0x23 0).req.legal = false ∧
    (requesting 0x0123 0x23 0 0x24 0).req.legal = false ∧ State.reset.req.legal = false ∧
    (calling 0x23 1 2).req.legal = true := by decide

/-! ### Every instruction's word, bit by bit (R51) -/

theorem test_decode_haddS8 : decode 0b0000000100100011 = .legal .haddS8 := by decide
theorem test_decode_haddS16 : decode 0b0000000100101010 = .legal .haddS16 := by decide
theorem test_decode_haddS32 : decode 0b0000000100110001 = .legal .haddS32 := by decide
theorem test_decode_haddqS8 : decode 0b0000000100100100 = .legal .haddqS8 := by decide
theorem test_decode_haddqS16 : decode 0b0000000100101011 = .legal .haddqS16 := by decide
theorem test_decode_haddqS32 : decode 0b0000000100110010 = .legal .haddqS32 := by decide
theorem test_decode_haddU8 : decode 0b0000000100000011 = .legal .haddU8 := by decide
theorem test_decode_haddU16 : decode 0b0000000100001010 = .legal .haddU16 := by decide
theorem test_decode_haddU32 : decode 0b0000000100010001 = .legal .haddU32 := by decide
theorem test_decode_haddqU8 : decode 0b0000000100000100 = .legal .haddqU8 := by decide
theorem test_decode_haddqU16 : decode 0b0000000100001011 = .legal .haddqU16 := by decide
theorem test_decode_haddqU32 : decode 0b0000000100010010 = .legal .haddqU32 := by decide

theorem test_table_word : decodeTableWord 16 0x0132 = some .haddqS32 ∧ decodeTableWord 16 0x0138 = none := by decide

/-! ### One transaction per instruction (spec/95_test_vectors.md section 2.4) -/

theorem test_haddS8_V1 :
    exec .haddS8 (calling 0x23 0x00000000000000000103FD807F7F7F80 0x00000000000000000002FEFF01807F80)
      = .next (answering 0x23 0x00000000000000000103FD807F7F7F80 0x00000000000000000002FEFF01807F80 0x00000000000000000002FDBF40FF7F80) := by
  exact congrArg Host.Outcome.next (by decide)
theorem test_haddS16_V3 :
    exec .haddS16 (calling 0x2A 0x00000000000000007FFF7FFF7FFF8000 0x0000000000000000000180007FFF8000)
      = .next (answering 0x2A 0x00000000000000007FFF7FFF7FFF8000 0x0000000000000000000180007FFF8000 0x00000000000000004000FFFF7FFF8000) := by
  exact congrArg Host.Outcome.next (by decide)
theorem test_haddS32_V5 :
    exec .haddS32 (calling 0x31 0x00000000000000007FFFFFFF80000000 0x00000000000000007FFFFFFF80000000)
      = .next (answering 0x31 0x00000000000000007FFFFFFF80000000 0x00000000000000007FFFFFFF80000000 0x00000000000000007FFFFFFF80000000) := by
  exact congrArg Host.Outcome.next (by decide)
theorem test_haddqS8_V7 :
    exec .haddqS8 (calling 0x24 0xFF01807F000580FF0103FD807F7F7F80 0xFFFF000000FA01000002FEFF01807F80)
      = .next (answering 0x24 0xFF01807F000580FF0103FD807F7F7F80 0xFFFF000000FA01000002FEFF01807F80 0xFF00C03F00FFC0FF0002FDBF40FF7F80) := by
  exact congrArg Host.Outcome.next (by decide)
theorem test_haddqS16_V9 :
    exec .haddqS16 (calling 0x2B 0x00010003FFFD80007FFF7FFF7FFF8000 0x00000002FFFEFFFF000180007FFF8000)
      = .next (answering 0x2B 0x00010003FFFD80007FFF7FFF7FFF8000 0x00000002FFFEFFFF000180007FFF8000 0x00000002FFFDBFFF4000FFFF7FFF8000) := by
  exact congrArg Host.Outcome.next (by decide)
theorem test_haddqS32_V11 :
    exec .haddqS32 (calling 0x32 0x7FFFFFFF7FFFFFFF7FFFFFFF80000000 0x00000001800000007FFFFFFF80000000)
      = .next (answering 0x32 0x7FFFFFFF7FFFFFFF7FFFFFFF80000000 0x00000001800000007FFFFFFF80000000 0x40000000FFFFFFFF7FFFFFFF80000000) := by
  exact congrArg Host.Outcome.next (by decide)
theorem test_haddU8_V13 :
    exec .haddU8 (calling 0x03 0x00000000000000000003808001FFFFFF 0x000000000000000000027F80000100FF)
      = .next (answering 0x03 0x00000000000000000003808001FFFFFF 0x000000000000000000027F80000100FF 0x000000000000000000027F8000807FFF) := by
  exact congrArg Host.Outcome.next (by decide)
theorem test_haddU16_V15 :
    exec .haddU16 (calling 0x0A 0x00000000000000000001FFFFFFFFFFFF 0x0000000000000000000000010000FFFF)
      = .next (answering 0x0A 0x00000000000000000001FFFFFFFFFFFF 0x0000000000000000000000010000FFFF 0x0000000000000000000080007FFFFFFF) := by
  exact congrArg Host.Outcome.next (by decide)
theorem test_haddU32_V17 :
    exec .haddU32 (calling 0x11 0x0000000000000000FFFFFFFFFFFFFFFF 0x000000000000000000000000FFFFFFFF)
      = .next (answering 0x11 0x0000000000000000FFFFFFFFFFFFFFFF 0x000000000000000000000000FFFFFFFF 0x00000000000000007FFFFFFFFFFFFFFF) := by
  exact congrArg Host.Outcome.next (by decide)
theorem test_haddqU8_V19 :
    exec .haddqU8 (calling 0x04 0xC8077F7F02FF01000003808001FFFFFF 0x6408807FFFFE01FF00027F80000100FF)
      = .next (answering 0x04 0xC8077F7F02FF01000003808001FFFFFF 0x6408807FFFFE01FF00027F80000100FF 0x96077F7F80FE017F00027F8000807FFF) := by
  exact congrArg Host.Outcome.next (by decide)
theorem test_haddqU16_V21 :
    exec .haddqU16 (calling 0x0B 0x00000003800080000001FFFFFFFFFFFF 0x000000027FFF8000000000010000FFFF)
      = .next (answering 0x0B 0x00000003800080000001FFFFFFFFFFFF 0x000000027FFF8000000000010000FFFF 0x000000027FFF8000000080007FFFFFFF) := by
  exact congrArg Host.Outcome.next (by decide)
theorem test_haddqU32_V23 :
    exec .haddqU32 (calling 0x12 0x00000001FFFFFFFFFFFFFFFFFFFFFFFF 0x000000000000000100000000FFFFFFFF)
      = .next (answering 0x12 0x00000001FFFFFFFFFFFFFFFFFFFFFFFF 0x000000000000000100000000FFFFFFFF 0x00000000800000007FFFFFFFFFFFFFFF) := by
  exact congrArg Host.Outcome.next (by decide)

/-- I3: bits `[127:64]` of narrow operands are ignored and those of the result are 0. -/
theorem test_narrow_upper_bits :
    stepResponse (calling 0x03 0xDEADBEEFDEADBEEFFFFFFFFFFFFFFFFF 0x0123456789ABCDEFFFFFFFFFFFFFFFFF)
      = some (okWith 0x03 0x0000000000000000FFFFFFFFFFFFFFFF) := by decide

/-! ### Rejects and idle (section 2.7) -/

theorem test_E2_unknown_operation : stepResponse (requesting 0x0223 0x23 0 0x23 0) = some (rejectWith .errOp 0) := by
  decide
theorem test_E7_reserved_lane_count : stepResponse (requesting 0x0125 0x25 0 0x25 0) = some (rejectWith .errDesc 0) := by
  decide
theorem test_E13_no_kernel : stepResponse (requesting 0x0118 0x18 0 0x18 0) = some (rejectWith .errNoKernel 0) := by
  decide
theorem test_E17_left_tag : stepResponse (requesting 0x0123 0x03 7 0x23 9) = some (rejectWith .errShape 0b01) := by
  decide
theorem test_E18_right_tag : stepResponse (requesting 0x0123 0x23 7 0x24 9) = some (rejectWith .errShape 0b10) := by
  decide
theorem test_E20_both_tags : stepResponse (requesting 0x0123 0x03 7 0x03 9) = some (rejectWith .errShape 0b11) := by
  decide
theorem test_E23_operation_first : stepResponse (requesting 0x0200 0x23 0 0x24 0) = some (rejectWith .errOp 0) := by
  decide
theorem test_E25_kernel_before_shape :
    stepResponse (requesting 0x0118 0x23 0 0x24 0) = some (rejectWith .errNoKernel 0) := by decide
theorem test_reject_codes :
    statusBits .ok = 0 ∧ statusBits (.reject .errOp) = 1 ∧ statusBits (.reject .errDesc) = 2 ∧
    statusBits (.reject .errNoKernel) = 3 ∧ statusBits (.reject .errShape) = 4 := by decide
theorem test_idle : stepResponse State.reset = some zeros := by decide

/-- The first step after reset runs the word that `withFetchWord` places. -/
theorem test_first_word_after_reset :
    stepResponse (State.reset.withFetchWord 16 0x012A) = some (okWith 0x2A 0) := by decide

/-! ### The container (spec/40_lane_vector.md) -/

/-- The source's example, S1: lane 0 in the low digits. -/
theorem test_pack_S1 :
    ((LaneVector.ofInts? Instr.haddS16.descriptor [10, -10, 5, -5]).bind pack)
      = some { tag := 0x2A, data := 0xFFFB0005FFF6000A } := by decide

/-- U6: a wrong number of values and a value outside the type are no construction. -/
theorem test_pack_refuses :
    LaneVector.ofInts? Instr.haddS16.descriptor [1, 2, 3] = none ∧
    patternOfInt? Instr.haddS8.descriptor 128 = none ∧ patternOfInt? Instr.haddU8.descriptor (-1) = none := by decide

/-- U5: vectors of another shape are not compared. -/
theorem test_veq_refuses :
    veq? Instr.haddS16.descriptor { tag := 0x2A, data := 0 } { tag := 0x0A, data := 0 } = none := by decide

/-- Q1 to Q3: the halves of the wide operand and the concatenation of the narrow results. -/
theorem test_halves_Q :
    lo? Instr.haddqS16.descriptor { tag := 0x2B, data := 0x0001FFFF80007FFFFFFB0005FFF6000A }
      = some { tag := 0x2A, data := 0xFFFB0005FFF6000A } ∧
    hi? Instr.haddqS16.descriptor { tag := 0x2B, data := 0x0001FFFF80007FFFFFFB0005FFF6000A }
      = some { tag := 0x2A, data := 0x0001FFFF80007FFF } ∧
    cat? Instr.haddS16.descriptor { tag := 0x2A, data := 0xFFFC0004FFF90007 } { tag := 0x2A, data := 0x0000FFFF80007FFF }
      = some { tag := 0x2B, data := 0x0000FFFF80007FFFFFFC0004FFF90007 } := by decide

/-! ### Witnesses: every statement with hypotheses has operands that meet them -/

/-- The state the tag-matching statements speak of, for each instruction, with two different operands. -/
def matching (i : Instr) : State := calling (descField (encode i)) 0x80 0x7F

theorem matching_tags (i : Instr) :
    (matching i).req.lhsTag = descField (encode i) ∧ (matching i).req.rhsTag = descField (encode i) ∧
    (matching i).req.lhsData ≠ (matching i).req.rhsData :=
  ⟨rfl, rfl, by show (0x80 : Data) ≠ 0x7F; decide⟩

theorem witness_LegalWordsAreTheTwelveEncodings : decode 0x012B = .legal .haddqS16 := by decide

theorem witness_DescriptorBytesRoundTrip :
    LaneDescriptor.wf { elementWidthBits := 64, isSigned := true, laneCount := 2 } = true ∧
    decodeDescriptor 0x39 = some { elementWidthBits := 64, isSigned := true, laneCount := 2 } := by decide

theorem witness_EveryOtherWordIsRejected :
    (∀ i : Instr, encode i ≠ 0x0139) ∧ opField 0x0139 = 0x01 ∧ wfDesc (descField 0x0139) = true ∧
    (requesting 0x0139 0 0 0 0).req.valid = true ∧ (requesting 0x0139 0 0 0 0).req.cmd = 0x0139 :=
  ⟨by intro i; cases i <;> decide, by decide, by decide, rfl, rfl⟩

theorem witness_LaneOfResultIsFloorOfHalfSum :
    8 * 16 ≤ 128 ∧ 15 < 16 ∧
    laneVal true (0xFD : BitVec 8) = floorHalf (laneVal true (0xFD : BitVec 8) + laneVal true (0xFE : BitVec 8)) := by
  decide

theorem witness_WidenedKernelEqualsValueKernel : 32 + 1 ≤ 33 ∧ 32 + 1 ≤ 64 := by decide

theorem witness_SignedSumFitsAndArithmeticShiftFloors :
    0 < 8 ∧ (0xFD : BitVec 8).toInt + (0xFE : BitVec 8).toInt < 0 ∧
    ((0xFD : BitVec 8).toInt + (0xFE : BitVec 8).toInt) % 2 = 1 := by decide

theorem witness_AccumulatorIsWiderThanTheLane :
    (calling 0x11 0xFFFFFFFF 0xFFFFFFFF).req.lhsTag = 0x11 ∧ (calling 0x11 0xFFFFFFFF 0xFFFFFFFF).req.rhsTag = 0x11 ∧
    lane 32 (calling 0x11 0xFFFFFFFF 0xFFFFFFFF).req.lhsData 0 = 0xFFFFFFFF ∧
    lane 32 (calling 0x11 0xFFFFFFFF 0xFFFFFFFF).req.rhsData 0 = 0xFFFFFFFF := by decide

/-- Both sides of the equivalence occur: a sum that fits, and one that overflows (section 2.3). -/
theorem witness_WrappedKernelDiffersExactlyOnOverflow :
    wrappedHalf true (3 : BitVec 8) 2 = haddLane true (3 : BitVec 8) 2 ∧
    wrappedHalf true (0x80 : BitVec 8) 0x80 ≠ haddLane true (0x80 : BitVec 8) 0x80 := by decide

theorem witness_FloorAndTruncationDifferOnOddNegativeSums :
    laneVal true (-3 : BitVec 8) + laneVal true (-2 : BitVec 8) < 0 ∧
    (laneVal true (-3 : BitVec 8) + laneVal true (-2 : BitVec 8)) % 2 = 1 := by decide

theorem witness_ResultLiesBetweenOperands : 0 < 8 ∧ (matching .haddS8).req.lhsTag = descField (encode .haddS8) ∧
    (matching .haddS8).req.rhsTag = descField (encode .haddS8) := by decide

theorem witness_HalvingAddCommutes (i : Instr) : (matching i).req.lhsTag = descField (encode i) ∧
    (matching i).req.rhsTag = descField (encode i) ∧ swapOperands (matching i) ≠ matching i :=
  ⟨rfl, rfl, fun h => (matching_tags i).2.2 (congrArg (fun s => s.req.rhsData) h)⟩

theorem witness_ExtremesAreFixedPoints :
    16 * 8 ≤ 128 ∧
    (calling 0x2B 0x80008000800080008000800080008000 0x80008000800080008000800080008000).req.lhsData
      = splat Instr.haddqS16.descriptor.laneCount (BitVec.intMin 16) ∧
    (calling 0x2B 0x80008000800080008000800080008000 0x80008000800080008000800080008000).req.lhsTag
      = descField (encode .haddqS16) := by decide

theorem witness_SameVectorIsFixedPoint : 32 * 4 ≤ 128 ∧ 3 < 4 := by decide

/-- I1 and I2: the operands differ in lane 3 of `lhs` and agree in lane 7. -/
theorem witness_LanesAreIndependent :
    let s := calling 0x03 0x50463C32281E140A 0x0807060504030201
    let s' := calling 0x03 0x50463C32FF1E140A 0x0807060504030201
    s.req.lhsTag = descField (encode .haddU8) ∧ s'.req.lhsTag = descField (encode .haddU8) ∧
    7 < Instr.haddU8.descriptor.laneCount ∧ lane 8 s.req.lhsData 7 = lane 8 s'.req.lhsData 7 ∧
    lane 8 s.req.rhsData 7 = lane 8 s'.req.rhsData 7 ∧ lane 8 s.req.lhsData 3 ≠ lane 8 s'.req.lhsData 3 := by decide

theorem witness_WideIsTwoNarrowHalves :
    16 * 4 = 64 ∧ (Instr.haddqS16, Instr.haddS16) ∈ familyPairs ∧
    PortVector.hasShape Instr.haddqS16.descriptor { tag := 0x2B, data := 0x0001FFFF80007FFFFFFB0005FFF6000A } = true := by
  decide

theorem witness_MultiplexerViewAgrees (i : Instr) : (matching i).req.lhsTag = descField (encode i) ∧
    (matching i).req.rhsTag = descField (encode i) := ⟨rfl, rfl⟩

/-- For each instruction rule: a state with both tags right, one with the left wrong, one with the right wrong. -/
theorem witness_instruction_rules (i : Instr) :
    ((matching i).req.lhsTag = descField (encode i) ∧ (matching i).req.rhsTag = descField (encode i)) ∧
    (requesting (encode i) 0 0 (descField (encode i)) 0).req.lhsTag ≠ descField (encode i) ∧
    (requesting (encode i) (descField (encode i)) 0 0 0).req.rhsTag ≠ descField (encode i) ∧
    i.descriptor.laneCount - 1 < i.descriptor.laneCount := by cases i <;> decide

theorem witness_StepRunsDecodedInstruction :
    (matching .haddqU8).req.valid = true ∧ decode (matching .haddqU8).req.cmd = .legal .haddqU8 := by decide

theorem witness_StepMeetsTransactionProcedure :
    (matching .haddU8).req.valid = true ∧ State.reset.req.valid = false := by decide

theorem witness_EveryInstructionCompletes :
    (matching .haddU32).req.lhsTag = descField (encode .haddU32) ∧
    (matching .haddU32).req.rhsTag = descField (encode .haddU32) ∧
    Instr.haddU32.descriptor.family? = some .narrow := by decide

theorem witness_IdleDrivesZerosAndChangesNothing :
    ∀ p ∈ [State.reset.req, { State.reset.req with cmd := 0x0123 }], p.valid = false := by decide

/-- Each clause: a bad operation; reserved bits, a reserved lane count, a bad product; 64-bit elements. -/
theorem witness_IllegalWordsRaiseTheirCodes :
    (requesting 0x0223 0 0 0 0).req.valid = true ∧ opField 0x0223 ≠ 0x01 ∧
    (opField 0x0163 = 0x01 ∧ rsvField 0x63 ≠ 0) ∧ (opField 0x0125 = 0x01 ∧ 4 < (lcField 0x25).toNat) ∧
    (opField 0x0122 = 0x01 ∧ (descriptorFields 0x22).laneCount * (descriptorFields 0x22).elementWidthBits = 32) ∧
    (opField 0x0139 = 0x01 ∧ rsvField 0x39 = 0 ∧ (lcField 0x39).toNat ≤ 4 ∧
      (descriptorFields 0x39).laneCount * (descriptorFields 0x39).elementWidthBits = 128 ∧
      (descriptorFields 0x39).elementWidthBits = 64) := by decide

/-- E17, E18, E20. -/
theorem witness_ShapeMismatchIsRejected :
    decode 0x0123 = .legal .haddS8 ∧ (requesting 0x0123 0x03 0 0x23 0).req.lhsTag ≠ descField 0x0123 ∧
    (requesting 0x0123 0x23 0 0x24 0).req.rhsTag ≠ descField 0x0123 ∧
    (requesting 0x0123 0x03 0 0x03 0).req.valid = true := by decide

/-- One presented request for each of the five codes. -/
theorem witness_FirstViolationIsReported :
    ((stepResponse (requesting 0x0000 0 0 0 0)).map Response.statusBits = some 1) ∧
    ((stepResponse (requesting 0x0100 0 0 0 0)).map Response.statusBits = some 2) ∧
    ((stepResponse (requesting 0x0119 0x19 0 0x19 0)).map Response.statusBits = some 3) ∧
    ((stepResponse (requesting 0x0132 0x31 0 0x31 0)).map Response.statusBits = some 4) ∧
    ((stepResponse (matching .haddqS32)).map Response.statusBits = some 0) := by decide

theorem witness_RejectCarriesNoResultAndSavesNothing :
    ∃ t, step (requesting 0x0123 0x03 1 0x23 2) = .next t ∧ t.rsp.status = .reject .errShape := ⟨_, rfl, by decide⟩

theorem witness_OperandDataNeverDecidesAReject :
    sameButData (requesting 0x0123 0x03 1 0x23 2).req (requesting 0x0123 0x03 3 0x23 4).req := ⟨rfl, rfl, rfl, rfl⟩

theorem witness_NarrowUpperBitsAreIgnoredAndZero :
    let p := (calling 0x03 0xDEADBEEFDEADBEEFFFFFFFFFFFFFFFFF 0x0123456789ABCDEFFFFFFFFFFFFFFFFF).req
    let q := (calling 0x03 0xFFFFFFFFFFFFFFFF 0xFFFFFFFFFFFFFFFF).req
    Instr.haddU8.descriptor.family? = some .narrow ∧ decode p.cmd = .legal .haddU8 ∧ p ≠ q ∧
    p.lhsData.extractLsb' 0 64 = q.lhsData.extractLsb' 0 64 ∧
    p.rhsData.extractLsb' 0 64 = q.rhsData.extractLsb' 0 64 ∧
    Instr.haddqU8.descriptor.family? = some .wide := by decide

theorem witness_RepeatedRequestRepeatsResponse : 0 < 3 := by decide

/-- Two interleavings with different requests of caller 2 and the same one of caller 1. -/
theorem witness_CallersCannotObserveEachOther :
    requestsOf 1 [(2, State.reset.req), (1, (matching .haddS8).req)]
      = requestsOf 1 [(1, (matching .haddS8).req), (2, (requesting 0 0 0 0 0).req)] := by decide

theorem witness_ResultCanBeNextOperand :
    (matching .haddS8).req.lhsTag = descField (encode .haddS8) ∧
    ({ tag := 0x23, data := 5 } : PortVector).tag = descField (encode .haddS8) := by decide

theorem witness_EveryStepLeavesALegalSettledResponse :
    ∃ t, step (matching .haddqU16) = .next t ∧ t.rsp ≠ (matching .haddqU16).rsp := ⟨_, rfl, by decide⟩

theorem witness_PackedLanesReadBack :
    Instr.haddqU32.descriptor.wf = true ∧
    (LaneVector.ofInts? Instr.haddqU32.descriptor [4294967295, 0, 1, 2]).isSome = true := by decide

theorem witness_VectorEqualityIsElementwise :
    Instr.haddS8.descriptor.wf = true ∧ PortVector.hasShape Instr.haddS8.descriptor { tag := 0x23, data := 1 } = true ∧
    PortVector.hasShape Instr.haddS8.descriptor { tag := 0x03, data := 1 } = false := by decide

theorem witness_HalvesAndConcatenationAreInverse :
    Instr.haddU16.descriptor.wf = true ∧ Instr.haddU16.descriptor.family? = some .narrow ∧
    PortVector.hasShape (doubleDescriptor Instr.haddU16.descriptor) { tag := 0x0B, data := 7 } = true ∧
    PortVector.hasShape Instr.haddU16.descriptor { tag := 0x0A, data := 7 } = true := by decide

/-- A descriptor with an entry, and one without. -/
theorem witness_SignalsRefineTypedApply :
    Instr.haddqS8.descriptor.wf = true ∧
    LaneDescriptor.wf { elementWidthBits := 64, isSigned := false, laneCount := 1 } = true ∧
    lookup .halvingAdd { elementWidthBits := 64, isSigned := false, laneCount := 1 } = none ∧
    (LaneVector.ofInts? { elementWidthBits := 64, isSigned := false, laneCount := 1 } [18446744073709551615]).isSome
      = true := by decide

end Sys2Proof.Tests
end

section
/-! SUPPORT. Lane Descriptors and their bytes, and the command words they make: a well-formed descriptor is one of
sixteen, its byte decodes to it again, and its halving-add word decodes to what the dispatch table says of it. -/

namespace Sys2Proof

/-! ### Fields of a command word -/

@[simp] theorem opField_append (op : BitVec 8) (desc : Tag) : opField (op ++ desc) = op :=
  BitVec.extractLsb'_append_eq_left

@[simp] theorem descField_append (op : BitVec 8) (desc : Tag) : descField (op ++ desc) = desc :=
  BitVec.extractLsb'_append_eq_right

/-! ### Well-formed descriptors -/

/-- Well-formedness as arithmetic: a container width, and a product that is a nominal vector width (spec/10_state.md
R16, R19). -/
theorem LaneDescriptor.wf_iff (d : LaneDescriptor) :
    d.wf = true ↔
      (d.elementWidthBits = 8 ∨ d.elementWidthBits = 16 ∨ d.elementWidthBits = 32 ∨ d.elementWidthBits = 64) ∧
        (d.laneCount * d.elementWidthBits = 64 ∨ d.laneCount * d.elementWidthBits = 128) := by
  have hfamily : d.family?.isSome = true ↔ d.vectorBits = 64 ∨ d.vectorBits = 128 := by
    unfold LaneDescriptor.family? Config.narrowBits Config.wideBits
    split
    · simp [*]
    · split <;> simp [*]
  simp [LaneDescriptor.wf, Config.containerWidths, hfamily, LaneDescriptor.vectorBits]

/-- The lanes of a well-formed descriptor fit the bus. -/
theorem LaneDescriptor.fits_of_wf {d : LaneDescriptor} (hd : d.wf = true) :
    d.elementWidthBits * d.laneCount ≤ 128 := by
  obtain ⟨-, hbits⟩ := (LaneDescriptor.wf_iff d).mp hd
  rw [Nat.mul_comm]
  omega

/-- The sixteen Lane Descriptors: each element type at each of the two vector widths. -/
def wfDescriptors : List LaneDescriptor :=
  [8, 16, 32, 64].flatMap fun W => [64 / W, 128 / W].flatMap fun N => [true, false].map fun sgn =>
    { elementWidthBits := W, isSigned := sgn, laneCount := N }

theorem mem_wfDescriptors_of_wf {d : LaneDescriptor} (hd : d.wf = true) : d ∈ wfDescriptors := by
  obtain ⟨W, sgn, N⟩ := d
  obtain ⟨hW, hN⟩ := (LaneDescriptor.wf_iff _).mp hd
  dsimp only at hW hN
  have hwidth : W ∈ [8, 16, 32, 64] := by simpa using hW
  have hcount : N ∈ [64 / W, 128 / W] := by
    have hdiv : N = 64 / W ∨ N = 128 / W := by
      rcases hW with rfl | rfl | rfl | rfl <;> omega
    simpa using hdiv
  have hsgn : sgn ∈ [true, false] := by cases sgn <;> simp
  exact List.mem_flatMap.mpr ⟨W, hwidth, List.mem_flatMap.mpr ⟨N, hcount, List.mem_map.mpr ⟨sgn, hsgn, rfl⟩⟩⟩

/-- A well-formed descriptor has a byte, which decodes to it (spec/30_encoding.md R44 to R48). -/
theorem encodeDescriptor_of_wf {d : LaneDescriptor} (hd : d.wf = true) :
    ∃ desc, encodeDescriptor d = some desc ∧ decodeDescriptor desc = some d := by
  have hall : ∀ e ∈ wfDescriptors, (encodeDescriptor e).bind decodeDescriptor = some e := by decide
  exact Option.bind_eq_some_iff.mp (hall d (mem_wfDescriptors_of_wf hd))

theorem encodeInstructionDescriptor_hadd {d : LaneDescriptor} {desc : Tag} (h : encodeDescriptor d = some desc) :
    encodeInstructionDescriptor { operation := .halvingAdd, lanes := d } = some (opHadd ++ desc) := by
  simp [encodeInstructionDescriptor, h]

/-! ### The dispatch table -/

/-- The table files each instruction under its own descriptor. -/
theorem descriptor_of_lookup {op : Operation} {d : LaneDescriptor} {i : Instr} (h : lookup op d = some i) :
    i.descriptor = d := by
  have htable : ∀ e ∈ dispatchTable, e.instr.descriptor = e.descriptor.lanes := by decide
  obtain ⟨e, hfind, rfl⟩ := Option.map_eq_some_iff.mp h
  have hkey : e.descriptor = { operation := op, lanes := d } := by simpa using List.find?_some hfind
  rw [htable e (List.mem_of_find?_eq_some hfind), hkey]

/-- A halving-add word whose byte encodes a descriptor decodes to the table's answer for it
(spec/30_encoding.md R57). -/
theorem decode_hadd_of_lookup_some {d : LaneDescriptor} {desc : Tag} {i : Instr}
    (hdesc : decodeDescriptor desc = some d) (hi : lookup .halvingAdd d = some i) :
    decode (opHadd ++ desc) = .legal i := by
  simp [decode, decodeOperation, hdesc, hi]

theorem decode_hadd_of_lookup_none {d : LaneDescriptor} {desc : Tag}
    (hdesc : decodeDescriptor desc = some d) (hn : lookup .halvingAdd d = none) :
    decode (opHadd ++ desc) = .illegal .errNoKernel := by
  simp [decode, decodeOperation, hdesc, hn]

/-! ### The instructions' own descriptors and words -/

/-- The family `Shape` of Laws/PerInstr.lean, for every instruction. -/
theorem shape_statement (i : Instr) : Laws.Shape.Statement i := by
  cases i with
  | haddS8 => exact Laws.Shape.haddS8
  | haddS16 => exact Laws.Shape.haddS16
  | haddS32 => exact Laws.Shape.haddS32
  | haddU8 => exact Laws.Shape.haddU8
  | haddU16 => exact Laws.Shape.haddU16
  | haddU32 => exact Laws.Shape.haddU32
  | haddqS8 => exact Laws.Shape.haddqS8
  | haddqS16 => exact Laws.Shape.haddqS16
  | haddqS32 => exact Laws.Shape.haddqS32
  | haddqU8 => exact Laws.Shape.haddqU8
  | haddqU16 => exact Laws.Shape.haddqU16
  | haddqU32 => exact Laws.Shape.haddqU32

/-- The low byte of an instruction's word is the byte of its descriptor. -/
theorem descField_encode {i : Instr} {desc : Tag} (h : encodeDescriptor i.descriptor = some desc) :
    descField (encode i) = desc := by
  obtain ⟨-, -, hword⟩ := shape_statement i
  rw [encodeInstructionDescriptor_hadd h, Option.some_inj] at hword
  rw [← hword, descField_append]

end Sys2Proof
end

section
/-! SUPPORT. The signal level against the typed level (spec/42_dispatch.md R98, R102 to R104): what a presented call
answers, the kernel on packed vectors, and the refinement of `apply`. -/

namespace Sys2Proof.Machine

/-! ### One presented call -/

/-- A presented illegal word is rejected. -/
theorem transact_call_of_illegal {cmd : Cmd} {code : RejectCode} (pa pb : PortVector) (s : State)
    (h : decode cmd = .illegal code) :
    transact (.call cmd pa pb) s = .next ((s.present (.call cmd pa pb)).reject code 0) := by
  have hcmd : (s.present (.call cmd pa pb)).command? = some cmd := command?_of_valid rfl
  simp [transact, step, hcmd, h]

/-- A presented legal word on two vectors under its own byte answers the kernel's result under that byte. -/
theorem transact_call_of_legal {cmd : Cmd} {i : Instr} {pa pb : PortVector} (s : State)
    (h : decode cmd = .legal i) (ha : pa.tag = descField (encode i)) (hb : pb.tag = descField (encode i)) :
    transact (.call cmd pa pb) s
      = .next ((s.present (.call cmd pa pb)).accept (descField (encode i))
          (haddVec i.descriptor.isSigned i.descriptor.elementWidthBits i.descriptor.laneCount pa.data pb.data)) := by
  have hcmd : (s.present (.call cmd pa pb)).command? = some cmd := command?_of_valid rfl
  calc transact (.call cmd pa pb) s = exec i (s.present (.call cmd pa pb)) := by simp [transact, step, hcmd, h]
    _ = _ := exec_eq_runKernel i _
    _ = _ := runKernel_of_match _ _ _ ha hb

@[simp] theorem Response.vector?_accepted (tag : Tag) (data : Data) :
    (Response.accepted tag data).vector? = some { tag := tag, data := data } := rfl

/-! ### The kernel on packed vectors -/

/-- The bus image of a typed vector: the data that `pack` puts beside the tag. -/
def laneImage {d : LaneDescriptor} (v : LaneVector d) : Data :=
  packLanes (fun i => v.lanes.getD i 0) d.laneCount

theorem pack_of_encodeDescriptor {d : LaneDescriptor} {desc : Tag} (h : encodeDescriptor d = some desc)
    (v : LaneVector d) : pack v = some { tag := desc, data := laneImage v } := by
  simp [pack, laneImage, h]

theorem haddLanes_getD {d : LaneDescriptor} (a b : LaneVector d) {i : Nat} (hi : i < d.laneCount) :
    (haddLanes a b).lanes.getD i 0 = haddLane d.isSigned (a.lanes.getD i 0) (b.lanes.getD i 0) := by
  have ha : i < a.lanes.length := a.count ▸ hi
  have hb : i < b.lanes.length := b.count ▸ hi
  simp [haddLanes, List.getD_eq_getElem?_getD, ha, hb]

/-- The vector kernel on two images is the image of the typed kernel's result. -/
theorem haddVec_laneImage {d : LaneDescriptor} (a b : LaneVector d)
    (hfit : d.elementWidthBits * d.laneCount ≤ 128) :
    haddVec d.isSigned d.elementWidthBits d.laneCount (laneImage a) (laneImage b) = laneImage (haddLanes a b) := by
  refine packLanes_congr fun i hi => ?_
  rw [haddLanes_getD a b hi, laneImage, laneImage, lane_pack_image a hi hfit, lane_pack_image b hi hfit]

/-! ### The typed operation -/

theorem applyTyped_of_lookup_some {op : Operation} {d : LaneDescriptor} {i : Instr} (h : lookup op d = some i)
    (a b : LaneVector d) : applyTyped op a b = some (haddLanes a b) := by
  simp [applyTyped, h]

theorem applyTyped_of_lookup_none {op : Operation} {d : LaneDescriptor} (h : lookup op d = none)
    (a b : LaneVector d) : applyTyped op a b = none := by
  simp [applyTyped, h]

/-- Where the table has an entry, the call on two packed vectors answers the packed typed result. -/
theorem transact_call_laneImage {d : LaneDescriptor} {desc : Tag} {i : Instr} (a b : LaneVector d) (s : State)
    (hd : d.wf = true) (henc : encodeDescriptor d = some desc) (hdec : decodeDescriptor desc = some d)
    (hi : lookup .halvingAdd d = some i) :
    ∃ t, transact (.call (opHadd ++ desc) { tag := desc, data := laneImage a } { tag := desc, data := laneImage b }) s
        = .next t ∧ t.rsp = .accepted desc (laneImage (haddLanes a b)) := by
  obtain rfl := descriptor_of_lookup hi
  have htag : descField (encode i) = desc := descField_encode henc
  refine ⟨_, transact_call_of_legal s (decode_hadd_of_lookup_some hdec hi) htag.symm htag.symm, ?_⟩
  rw [State.accept_rsp, htag, haddVec_laneImage a b (LaneDescriptor.fits_of_wf hd)]

/-- Settles O50: the table either has the descriptor's instruction, whose kernel commutes with packing, or has no entry,
and then the word of the request decodes to `ERR_NOKERNEL`. -/
theorem signalsRefineTypedApply : Obligations.SignalsRefineTypedApply := by
  unfold Obligations.SignalsRefineTypedApply
  intro d a b s hd
  obtain ⟨desc, henc, hdec⟩ := encodeDescriptor_of_wf hd
  have hword := encodeInstructionDescriptor_hadd henc
  have hpack := pack_of_encodeDescriptor henc
  cases hlookup : lookup .halvingAdd d with
  | some i =>
    obtain ⟨t, hstep, hrsp⟩ := transact_call_laneImage a b s hd henc hdec hlookup
    refine ⟨_, _, _, t, hword, hpack a, hpack b, hstep, ?_⟩
    rw [applyTyped_of_lookup_some hlookup, hrsp]
    exact ⟨by rw [Response.vector?_accepted, hpack], rfl⟩
  | none =>
    refine ⟨_, _, _, _, hword, hpack a, hpack b,
      transact_call_of_illegal _ _ s (decode_hadd_of_lookup_none hdec hlookup), ?_⟩
    rw [applyTyped_of_lookup_none hlookup]
    exact State.reject_rsp _ _ _

end Sys2Proof.Machine
end

section
/-! SUPPORT. What decoding a word can give, and the dispatch table beside it (spec/30_encoding.md R57,
spec/42_dispatch.md R100 to R102): each verdict of the decoder with its reason in the word's fields. -/

namespace Sys2Proof

/-! ### Descriptor bytes -/

/-- A byte that encodes a Lane Descriptor is the byte of that descriptor (spec/30_encoding.md R44 to R48). -/
theorem encodeDescriptor_descriptorFields :
    ∀ desc : Tag, wfDesc desc = true → encodeDescriptor (descriptorFields desc) = some desc := by decide

/-! ### The dispatch table -/

theorem lookup_descriptor (i : Instr) : lookup .halvingAdd i.descriptor = some i := by
  cases i <;> rfl

/-- The table finds exactly the instruction of a descriptor (spec/10_state.md R21). -/
theorem lookup_eq_some_iff {op : Operation} {d : LaneDescriptor} {i : Instr} :
    lookup op d = some i ↔ i.descriptor = d := by
  constructor
  · exact descriptor_of_lookup
  · rintro rfl
    cases op
    exact lookup_descriptor i

/-- The table has an entry for a descriptor where the lookup finds an instruction. -/
theorem any_dispatchTable (op : Operation) (d : LaneDescriptor) :
    (dispatchTable.any fun e => e.descriptor == { operation := op, lanes := d }) = (lookup op d).isSome := by
  rw [lookup, Option.isSome_map, List.isSome_find?]
  rfl

/-- Settles O6: the facts about the table's rows are read off it, and the lookup is characterised for every descriptor
by `lookup_eq_some_iff`. -/
theorem dispatchTableSelectsOneEntry : Obligations.DispatchTableSelectsOneEntry := by
  unfold Obligations.DispatchTableSelectsOneEntry
  exact ⟨rfl, by decide, by decide, fun _ _ _ => lookup_eq_some_iff⟩

/-! ### Decoding -/

/-- Everything decoding can give, and why (spec/30_encoding.md R57): no operation, no descriptor, no entry, or an
instruction whose descriptor the low byte spells and whose own low byte it is. -/
theorem decode_cases (cmd : Cmd) :
    (opField cmd ≠ opHadd ∧ decode cmd = .illegal .errOp) ∨
    (opField cmd = opHadd ∧ wfDesc (descField cmd) = false ∧ decode cmd = .illegal .errDesc) ∨
    (opField cmd = opHadd ∧ wfDesc (descField cmd) = true ∧
      lookup .halvingAdd (descriptorFields (descField cmd)) = none ∧ decode cmd = .illegal .errNoKernel) ∨
    (∃ i, opField cmd = opHadd ∧ wfDesc (descField cmd) = true ∧
      descriptorFields (descField cmd) = i.descriptor ∧ descField (encode i) = descField cmd ∧
      decode cmd = .legal i) := by
  by_cases hop : opField cmd = opHadd
  case neg => exact .inl ⟨hop, by simp [decode, decodeOperation, hop]⟩
  cases hwf : wfDesc (descField cmd) with
  | false => exact .inr (.inl ⟨hop, rfl, by simp [decode, decodeOperation, decodeDescriptor, hop, hwf]⟩)
  | true =>
    cases hlookup : lookup .halvingAdd (descriptorFields (descField cmd)) with
    | none =>
      exact .inr (.inr (.inl ⟨hop, rfl, rfl, by simp [decode, decodeOperation, decodeDescriptor, hop, hwf, hlookup]⟩))
    | some i =>
      have hdesc : i.descriptor = descriptorFields (descField cmd) := descriptor_of_lookup hlookup
      have hbyte : descField (encode i) = descField cmd :=
        descField_encode (hdesc ▸ encodeDescriptor_descriptorFields _ hwf)
      exact .inr (.inr (.inr ⟨i, hop, rfl, hdesc.symm, hbyte,
        by simp [decode, decodeOperation, decodeDescriptor, hop, hwf, hlookup]⟩))

/-- The decoder never blames the shape tags, which it does not see (spec/60_exceptions.md R110, R114). -/
theorem ne_errShape_of_illegal {cmd : Cmd} {c : RejectCode} (h : decode cmd = .illegal c) : c ≠ .errShape := by
  rintro rfl
  rcases decode_cases cmd with ⟨-, hd⟩ | ⟨-, -, hd⟩ | ⟨-, -, -, hd⟩ | ⟨i, -, -, -, -, hd⟩ <;>
    rw [hd] at h <;> cases h

/-! ### The families of a descriptor -/

theorem LaneDescriptor.vectorBits_of_narrow {d : LaneDescriptor} (h : d.family? = some .narrow) :
    d.vectorBits = 64 := by
  unfold LaneDescriptor.family? at h
  split at h
  · assumption
  · split at h <;> cases h

theorem LaneDescriptor.vectorBits_of_wide {d : LaneDescriptor} (h : d.family? = some .wide) :
    d.vectorBits = 128 := by
  unfold LaneDescriptor.family? at h
  split at h
  · cases h
  · split at h
    · assumption
    · cases h

end Sys2Proof
end

section
/-! SUPPORT. Which bits of a bus image the vector kernel reads and writes (spec/10_state.md R26, spec/41_halving_add.md
R76). -/

namespace Sys2Proof.Machine

/-- The kernel leaves zeros at and above `N*W`. -/
theorem vectorImage_haddVec (sgn : Bool) (W N : Nat) (a b : Data) :
    vectorImage (W * N) (haddVec sgn W N a b) = haddVec sgn W N a b := by
  apply BitVec.eq_of_getLsbD_eq
  intro k hk
  rw [vectorImage_getLsbD, haddVec_getLsbD _ _ _ _ _ hk]
  simp [hk]

/-- The kernel reads no bit at or above `N*W`. -/
theorem haddVec_vectorImage (sgn : Bool) {W N n : Nat} (a b : Data) (hfit : W * N ≤ n) (hn : n ≤ 128) :
    haddVec sgn W N (vectorImage n a) (vectorImage n b) = haddVec sgn W N a b := by
  refine packLanes_congr fun i hi => ?_
  have hin : W * i + W ≤ n := by
    have : W * (i + 1) ≤ W * N := Nat.mul_le_mul_left W hi
    rw [Nat.mul_succ] at this
    omega
  rw [lane_vectorImage a hin hn, lane_vectorImage b hin hn]

theorem vectorImage_eq_of_low_eq {n : Nat} {a b : Data} (hn : n ≤ 128)
    (h : a.extractLsb' 0 n = b.extractLsb' 0 n) :
    vectorImage n a = vectorImage n b := by
  rw [vectorImage, vectorImage, BitVec.setWidth_eq_extractLsb' hn, BitVec.setWidth_eq_extractLsb' hn, h]

/-- A narrow vector has zeros on the bits `[127:64]` of its image. -/
theorem vectorImage_high (d : Data) : (vectorImage 64 d).extractLsb' 64 64 = 0 := by
  apply BitVec.eq_of_getLsbD_eq
  intro k hk
  simp [vectorImage_getLsbD]

end Sys2Proof.Machine
end

section
/-! SUPPORT. A step is the pure function `responseTo` of the request (spec/10_state.md R24, spec/42_dispatch.md R99):
what an instruction answers, what the procedure answers by the decoder's verdict, and the step as that answer. The
statements about every step follow. -/

namespace Sys2Proof.Machine

open Sys2Proof.Claims

/-! ### The answer of an instruction -/

/-- Steps 4 and 5 of R99 at an instruction's own descriptor byte and descriptor: a shape reject, or the kernel's
result. `exec_eq_instrResponse` ties it to the arms, `applyProcedure_of_legal` to the procedure. -/
def instrResponse (i : Instr) (q : Request) : Response :=
  let desc := descField (encode i)
  let d := i.descriptor
  let ml := lhsMismatch desc q
  let mr := rhsMismatch desc q
  if ml || mr then .rejected .errShape (mismatchInfo ml mr)
  else .accepted desc (haddVec d.isSigned d.elementWidthBits d.laneCount q.lhsData q.rhsData)

/-- The information bits are nonzero when an operand tag differs (spec/60_exceptions.md R114). -/
theorem mismatchInfo_ne_zero : ∀ ml mr : Bool, (ml || mr) = true → mismatchInfo ml mr ≠ 0 := by decide

/-- An instruction answers a result under its own byte, or a shape reject that names a mismatch. -/
theorem instrResponse_cases (i : Instr) (q : Request) :
    instrResponse i q = .accepted (descField (encode i))
      (haddVec i.descriptor.isSigned i.descriptor.elementWidthBits i.descriptor.laneCount q.lhsData q.rhsData) ∨
    ∃ info : Info, info ≠ 0 ∧ instrResponse i q = .rejected .errShape info := by
  by_cases hm : (lhsMismatch (descField (encode i)) q || rhsMismatch (descField (encode i)) q) = true
  · exact .inr ⟨_, mismatchInfo_ne_zero _ _ hm, if_pos hm⟩
  · exact .inl (if_neg hm)

/-- Executing an instruction drives its answer and changes nothing else. -/
theorem exec_eq_instrResponse (i : Instr) (s : State) :
    exec i s = .next { req := s.req, rsp := instrResponse i s.req } := by
  rw [exec_eq_runKernel, runKernel, instrResponse]
  split <;> rfl

/-- Settles O31: the arm drives the instruction's answer, which is a result or a shape reject. -/
theorem execChangesOnlyTheResponse : Obligations.ExecChangesOnlyTheResponse := by
  unfold Obligations.ExecChangesOnlyTheResponse
  intro i s
  refine ⟨_, exec_eq_instrResponse i s, rfl, ?_⟩
  rcases instrResponse_cases i s.req with h | ⟨info, -, h⟩
  · simp only [h]
    exact ⟨rfl, .inl rfl⟩
  · simp only [h]
    exact ⟨rfl, .inr rfl⟩

/-! ### The transaction procedure by the decoder's verdict -/

/-- A word that the decoder finds illegal is rejected with the decoder's code, whatever the tags are. -/
theorem applyProcedure_of_illegal {q : Request} {c : RejectCode} (h : decode q.cmd = .illegal c) :
    applyProcedure q = .rejected c 0 := by
  rcases decode_cases q.cmd with
    ⟨hop, hd⟩ | ⟨hop, hwf, hd⟩ | ⟨hop, hwf, hnone, hd⟩ | ⟨i, -, -, -, -, hd⟩ <;> rw [hd] at h <;> cases h
  · simp [applyProcedure, hop]
  · simp [applyProcedure, hop, hwf]
  · simp [applyProcedure, hop, hwf, any_dispatchTable, hnone]

/-- A legal word gets its instruction's answer: the fields of its byte spell the instruction's byte and descriptor. -/
theorem applyProcedure_of_legal {q : Request} {i : Instr} (h : decode q.cmd = .legal i) :
    applyProcedure q = instrResponse i q := by
  rcases decode_cases q.cmd with
    ⟨-, hd⟩ | ⟨-, -, hd⟩ | ⟨-, -, -, hd⟩ | ⟨j, hop, hwf, hfields, hbyte, hd⟩ <;> rw [hd] at h <;> cases h
  simp [applyProcedure, instrResponse, hop, hwf, any_dispatchTable, hfields, lookup_descriptor, hbyte]

theorem responseTo_of_valid {q : Request} (h : q.valid = true) : responseTo q = applyProcedure q := if_pos h

theorem responseTo_of_idle {q : Request} (h : q.valid = false) : responseTo q = .idle := by simp [responseTo, h]

/-- Everything a request can be answered with: zeros, the reject of an illegal word, or an instruction's answer. -/
theorem responseTo_cases (q : Request) :
    (q.valid = false ∧ responseTo q = .idle) ∨
    (∃ c, q.valid = true ∧ decode q.cmd = .illegal c ∧ responseTo q = .rejected c 0) ∨
    (∃ i, q.valid = true ∧ decode q.cmd = .legal i ∧ responseTo q = instrResponse i q) := by
  cases hv : q.valid with
  | false => exact .inl ⟨rfl, responseTo_of_idle hv⟩
  | true =>
    have hproc := responseTo_of_valid hv
    cases hd : decode q.cmd with
    | illegal c => exact .inr (.inl ⟨c, rfl, rfl, hproc.trans (applyProcedure_of_illegal hd)⟩)
    | legal i => exact .inr (.inr ⟨i, rfl, rfl, hproc.trans (applyProcedure_of_legal hd)⟩)

/-! ### The step -/

/-- A step, from any state, answers the function of the request and leaves the request as it is. -/
theorem step_eq_responseTo (s : State) : step s = .next { req := s.req, rsp := responseTo s.req } := by
  rcases step_cases s with ⟨hv, hs⟩ | ⟨c, hv, hd, hs⟩ | ⟨i, hv, hd, hs⟩
  · rw [hs, responseTo_of_idle hv]
    rfl
  · rw [hs, responseTo_of_valid hv, applyProcedure_of_illegal hd]
    rfl
  · rw [hs, responseTo_of_valid hv, applyProcedure_of_legal hd, exec_eq_instrResponse]

/-- A transaction answers the function of its request, whatever state it finds. -/
theorem transact_eq_responseTo (q : Request) (s : State) :
    transact q s = .next { req := q, rsp := responseTo q } :=
  step_eq_responseTo (s.present q)

/-- Settles O29: the step is `responseTo`, which is the procedure on a presented request and zeros without one. -/
theorem stepMeetsTransactionProcedure : Obligations.StepMeetsTransactionProcedure := by
  unfold Obligations.StepMeetsTransactionProcedure
  intro s
  constructor
  · intro hv
    rw [step_eq_responseTo, responseTo_of_valid hv]
  · intro hv
    rw [step_eq_responseTo, responseTo_of_idle hv]
    rfl

theorem responseTo_valid (q : Request) : (responseTo q).valid = q.valid := by
  rcases responseTo_cases q with ⟨hv, h⟩ | ⟨c, hv, -, h⟩ | ⟨i, hv, -, h⟩
  · rw [h, hv]; rfl
  · rw [h, hv]; rfl
  · rw [h, hv]
    rcases instrResponse_cases i q with h | ⟨info, -, h⟩ <;> rw [h] <;> rfl

/-- Settles O32: the step answers `responseTo` in every state, and that is valid when the request is. -/
theorem everyStepCompletes : Obligations.EveryStepCompletes := by
  unfold Obligations.EveryStepCompletes
  intro s
  exact ⟨_, step_eq_responseTo s, rfl, responseTo_valid s.req⟩

/-! ### The invariants of the response port -/

theorem Response.wf_idle : Response.idle.wf := .inl rfl

theorem Response.wf_rejected {c : RejectCode} {info : Info} (h : info ≠ 0 ↔ c = .errShape) :
    (Response.rejected c info).wf := .inr (.inr ⟨c, rfl, rfl, rfl, rfl, h⟩)

theorem Response.wf_accepted {i : Instr} {data : Data} (h : data = vectorImage i.descriptor.vectorBits data) :
    (Response.accepted (descField (encode i)) data).wf := .inr (.inl ⟨i, rfl, rfl, rfl, rfl, h⟩)

/-- The kernel's result at a descriptor is the image of a vector of that descriptor. -/
theorem haddVec_eq_vectorImage (d : LaneDescriptor) (a b : Data) :
    haddVec d.isSigned d.elementWidthBits d.laneCount a b
      = vectorImage d.vectorBits (haddVec d.isSigned d.elementWidthBits d.laneCount a b) := by
  rw [LaneDescriptor.vectorBits, Nat.mul_comm, vectorImage_haddVec]

theorem instrResponse_wf (i : Instr) (q : Request) : (instrResponse i q).wf := by
  rcases instrResponse_cases i q with h | ⟨info, hinfo, h⟩ <;> rw [h]
  · exact Response.wf_accepted (haddVec_eq_vectorImage _ _ _)
  · exact Response.wf_rejected (iff_of_true hinfo rfl)

/-- The function of the request gives legal responses only. -/
theorem responseTo_wf (q : Request) : (responseTo q).wf := by
  rcases responseTo_cases q with ⟨-, h⟩ | ⟨c, -, hd, h⟩ | ⟨i, -, -, h⟩ <;> rw [h]
  · exact Response.wf_idle
  · exact Response.wf_rejected (iff_of_false (fun h0 => h0 rfl) (ne_errShape_of_illegal hd))
  · exact instrResponse_wf i q

/-- Settles O45: the state after a step holds `responseTo` of its request, and such a response is legal. -/
theorem everyStepLeavesALegalSettledResponse : Obligations.EveryStepLeavesALegalSettledResponse := by
  unfold Obligations.EveryStepLeavesALegalSettledResponse
  intro s t hstep
  rw [step_eq_responseTo] at hstep
  cases hstep
  exact ⟨responseTo_wf s.req, rfl⟩

/-- Settles O46: the reset state holds the idle response beside a request that is not presented, and `responseTo` gives
just that. -/
theorem resetIsIdleAndSettled : Obligations.ResetIsIdleAndSettled := by
  unfold Obligations.ResetIsIdleAndSettled
  have hsettled : State.reset.settled := (responseTo_of_idle rfl).symm
  refine ⟨rfl, rfl, Response.wf_idle, hsettled, ?_⟩
  rw [step_eq_responseTo, ← hsettled]

/-! ### The upper half of a narrow vector -/

/-- A narrow instruction's answer does not look at the bits `[127:64]` of the operands. -/
theorem instrResponse_congr_of_narrow {i : Instr} {p q : Request} (hi : i.descriptor.family? = some .narrow)
    (hsame : sameButData p q) (hlhs : p.lhsData.extractLsb' 0 64 = q.lhsData.extractLsb' 0 64)
    (hrhs : p.rhsData.extractLsb' 0 64 = q.rhsData.extractLsb' 0 64) : instrResponse i p = instrResponse i q := by
  obtain ⟨-, -, hlt, hrt⟩ := hsame
  have hfit : i.descriptor.elementWidthBits * i.descriptor.laneCount ≤ 64 := by
    rw [Nat.mul_comm]
    exact (LaneDescriptor.vectorBits_of_narrow hi).le
  have hdata : haddVec i.descriptor.isSigned i.descriptor.elementWidthBits i.descriptor.laneCount p.lhsData p.rhsData
      = haddVec i.descriptor.isSigned i.descriptor.elementWidthBits i.descriptor.laneCount q.lhsData q.rhsData := by
    rw [← haddVec_vectorImage _ p.lhsData _ hfit (by decide), ← haddVec_vectorImage _ q.lhsData _ hfit (by decide),
      vectorImage_eq_of_low_eq (by decide) hlhs, vectorImage_eq_of_low_eq (by decide) hrhs]
  have hl (desc : Tag) : lhsMismatch desc p = lhsMismatch desc q := by rw [lhsMismatch, lhsMismatch, hlt]
  have hr (desc : Tag) : rhsMismatch desc p = rhsMismatch desc q := by rw [rhsMismatch, rhsMismatch, hrt]
  simp only [instrResponse, hl, hr, hdata]

/-- A narrow instruction's answer has zeros on the data bits `[127:64]`, a reject's as well. -/
theorem instrResponse_data_high {i : Instr} (q : Request) (hi : i.descriptor.family? = some .narrow) :
    (instrResponse i q).data.extractLsb' 64 64 = 0 := by
  rcases instrResponse_cases i q with h | ⟨info, -, h⟩ <;> rw [h]
  · rw [Response.accepted, haddVec_eq_vectorImage, LaneDescriptor.vectorBits_of_narrow hi, vectorImage_high]
  · simp [Response.rejected]

/-- Settles O40: unless both requests are idle, their answers are those of the narrow instruction. -/
theorem narrowUpperBitsAreIgnoredAndZero : Obligations.NarrowUpperBitsAreIgnoredAndZero := by
  unfold Obligations.NarrowUpperBitsAreIgnoredAndZero
  refine ⟨?_, fun i hi => LaneDescriptor.vectorBits_of_wide hi⟩
  intro i p q s hi hdec hsame hlhs hrhs
  refine ⟨_, _, transact_eq_responseTo p s, transact_eq_responseTo q s, ?_⟩
  have ⟨hvalid, hcmd, _, _⟩ := hsame
  cases hv : p.valid with
  | false =>
    rw [responseTo_of_idle hv, responseTo_of_idle (hvalid ▸ hv)]
    exact ⟨rfl, by simp [Response.idle]⟩
  | true =>
    rw [responseTo_of_valid hv, responseTo_of_valid (hvalid ▸ hv), applyProcedure_of_legal hdec,
      applyProcedure_of_legal (hcmd ▸ hdec)]
    exact ⟨instrResponse_congr_of_narrow hi hsame hlhs hrhs, instrResponse_data_high p hi⟩

end Sys2Proof.Machine
end

section
/-! SUPPORT. Serving a list of requests answers the function of each, whatever state the first one finds
(spec/20_memory.md R34, R37, R42): the step's rule lifted over the list, once, and what several callers see of it. -/

namespace Sys2Proof.Machine

/-! ### A list of requests -/

/-- The state that a transaction leaves: the request as presented, beside its response. `transact_eq_answered` ties it
to the step. -/
def answered (q : Request) : State := { req := q, rsp := responseTo q }

theorem transact_eq_answered (q : Request) (s : State) : transact q s = .next (answered q) :=
  transact_eq_responseTo q s

/-- Every request gets its own response, and the last one alone decides the state that is left. -/
theorem serveAll_eq (qs : List Request) (s : State) :
    serveAll qs s = some (qs.map responseTo, qs.getLast?.elim s answered) := by
  induction qs generalizing s with
  | nil => rfl
  | cons q qs ih =>
    have hlast : (q :: qs).getLast?.elim s answered = qs.getLast?.elim (answered q) answered := by
      rw [List.getLast?_cons]
      cases qs.getLast? <;> rfl
    rw [serveAll_cons_of_next qs (transact_eq_answered q s), ih, hlast]
    rfl

/-- Settles O42: of `n` copies of a request every one gets the same response, and the last one leaves the state. -/
theorem repeatedRequestRepeatsResponse : Obligations.RepeatedRequestRepeatsResponse := by
  unfold Obligations.RepeatedRequestRepeatsResponse
  intro q s n
  refine ⟨_, by rw [serveAll_eq, List.map_replicate], fun hn => ?_⟩
  rw [List.getLast?_replicate, if_neg hn.ne']
  rfl

/-! ### Several callers -/

/-- One caller's part of a served schedule: its own requests' responses, in their order. -/
theorem responsesTo_eq (caller : Nat) (sched : Schedule) (s : State) :
    responsesTo caller sched s = some ((requestsOf caller sched).map responseTo) := by
  have hpair : (sched.map (·.1)).zip ((sched.map (·.2)).map responseTo)
      = sched.map fun e => (e.1, responseTo e.2) := by
    rw [List.map_map, List.zip_map']
    rfl
  rw [responsesTo, serveAll_eq, Option.map_some, hpair, List.filter_map, List.map_map, requestsOf, List.map_map]
  rfl

/-- Settles O43: a caller's responses are a function of its own requests, so the rest of the schedule drops out. -/
theorem callersCannotObserveEachOther : Obligations.CallersCannotObserveEachOther := by
  unfold Obligations.CallersCannotObserveEachOther
  refine ⟨responsesTo_eq, ?_⟩
  intro caller sched sched' s s' hsame
  rw [responsesTo_eq, responsesTo_eq, hsame]

end Sys2Proof.Machine
end

section
/-! SUPPORT. Which bytes encode a Lane Descriptor (spec/30_encoding.md R44 to R49): the three conditions on a byte's
codes are the invariant of R19 on the descriptor they spell, and encoding and decoding are inverse. -/

namespace Sys2Proof

/-! ### The codes of a byte as arithmetic -/

/-- The product of the lane count and the element width, in code terms (spec/30_encoding.md R48). -/
theorem countOfCode_mul_widthOfCode (ewc : BitVec 2) (lc : BitVec 3) :
    countOfCode lc * widthOfCode ewc = 8 * 2 ^ (ewc.toNat + lc.toNat) := by
  rw [countOfCode, widthOfCode, pow_add]
  ring

/-- A width code spells a width the container admits, whichever it is (spec/30_encoding.md R46). -/
theorem widthOfCode_mem : ∀ ewc : BitVec 2,
    widthOfCode ewc = 8 ∨ widthOfCode ewc = 16 ∨ widthOfCode ewc = 32 ∨ widthOfCode ewc = 64 := by decide

theorem widthOfCode_eq_64_iff : ∀ ewc : BitVec 2, widthOfCode ewc = 64 ↔ ewc = 3 := by decide

/-- The triple a byte spells satisfies the invariant of R19 where its codes add up to 3 or 4
(spec/30_encoding.md R48). -/
theorem descriptorFields_wf_iff (desc : Tag) :
    (descriptorFields desc).wf = true ↔
      (ewcField desc).toNat + (lcField desc).toNat = 3 ∨ (ewcField desc).toNat + (lcField desc).toNat = 4 := by
  have hexp (k m : Nat) : 8 * 2 ^ k = 8 * 2 ^ m ↔ k = m := by
    rw [Nat.mul_right_inj (by decide), Nat.pow_right_inj (by decide)]
  simp only [LaneDescriptor.wf_iff, descriptorFields, widthOfCode_mem, true_and, countOfCode_mul_widthOfCode]
  exact or_congr (hexp _ 3) (hexp _ 4)

/-- A byte is well formed where nothing is reserved in it and its triple is a Lane Descriptor (spec/30_encoding.md
R48). -/
theorem wfDesc_iff (desc : Tag) :
    wfDesc desc = true ↔
      rsvField desc = 0 ∧ (lcField desc).toNat ≤ 4 ∧ (descriptorFields desc).wf = true := by
  rw [descriptorFields_wf_iff]
  simp [wfDesc, and_assoc]

/-! ### Decoding a byte -/

theorem decodeDescriptor_eq_some_iff {desc : Tag} {d : LaneDescriptor} :
    decodeDescriptor desc = some d ↔ wfDesc desc = true ∧ descriptorFields desc = d := by
  simp [decodeDescriptor]

theorem decodeDescriptor_isSome (desc : Tag) : (decodeDescriptor desc).isSome = wfDesc desc := by
  cases h : wfDesc desc <;> simp [decodeDescriptor, h]

/-- Settles O4: a descriptor's byte decodes to it, a byte that decodes is the byte of its own triple, and the bytes
that decode are those of `wfDesc_iff`. -/
theorem descriptorBytesRoundTrip : Obligations.DescriptorBytesRoundTrip := by
  unfold Obligations.DescriptorBytesRoundTrip
  refine ⟨fun d hd => encodeDescriptor_of_wf hd, ?_, ?_⟩
  · intro b d hdec
    obtain ⟨hwf, rfl⟩ := decodeDescriptor_eq_some_iff.mp hdec
    obtain ⟨-, -, hd⟩ := (wfDesc_iff b).mp hwf
    exact ⟨hd, encodeDescriptor_descriptorFields b hwf⟩
  · intro b
    rw [decodeDescriptor_isSome, wfDesc_iff]

/-- Settles O3: the bytes are told apart one by one, and each row's descriptor is the triple its byte spells. -/
theorem wellFormedBytesAreTheSixteen : Obligations.WellFormedBytesAreTheSixteen := by
  unfold Obligations.WellFormedBytesAreTheSixteen
  intro rows
  have hbytes : ∀ b : Tag, wfDesc b = true ↔ b ∈ rows.map (·.1) := by
    subst rows
    decide
  have hfields : ∀ row ∈ rows, (descriptorFields row.1).elementType? = some row.2.1 ∧
      (descriptorFields row.1).laneCount = row.2.2.1 ∧ (descriptorFields row.1).family? = some row.2.2.2 := by
    subst rows
    decide
  refine ⟨hbytes, fun row hrow => ⟨descriptorFields row.1, ?_, hfields row hrow⟩⟩
  exact decodeDescriptor_eq_some_iff.mpr ⟨(hbytes row.1).mpr (List.mem_map_of_mem hrow), rfl⟩

end Sys2Proof
end

section
/-! SUPPORT. The legal command words (spec/30_encoding.md R51): decoding and encoding are inverse, and the words that
decode are the well-formed ones without 64-bit elements. -/

namespace Sys2Proof

/-! ### Decode against encode -/

/-- A command word is its two bytes (spec/30_encoding.md R43). -/
theorem opField_append_descField (cmd : Cmd) : opField cmd ++ descField cmd = cmd :=
  BitVec.extractLsb'_append_extractLsb'

/-- The low byte of an instruction's word is the byte of its descriptor, which it decodes to. -/
theorem descField_encode_spec (i : Instr) :
    encodeDescriptor i.descriptor = some (descField (encode i)) ∧
      decodeDescriptor (descField (encode i)) = some i.descriptor := by
  obtain ⟨hwf, -, -⟩ := shape_statement i
  obtain ⟨desc, henc, hdec⟩ := encodeDescriptor_of_wf hwf
  rw [descField_encode henc]
  exact ⟨henc, hdec⟩

/-- An instruction's word is the halving-add identifier and the byte of its descriptor. -/
theorem encode_eq_append (i : Instr) : encode i = opHadd ++ descField (encode i) := by
  obtain ⟨-, -, hword⟩ := shape_statement i
  rw [encodeInstructionDescriptor_hadd (descField_encode_spec i).1] at hword
  exact (Option.some_inj.mp hword).symm

theorem decode_encode (i : Instr) : decode (encode i) = .legal i := by
  rw [encode_eq_append]
  exact decode_hadd_of_lookup_some (descField_encode_spec i).2 (lookup_descriptor i)

/-- Decoding is the inverse of encoding on all words: a legal word has both bytes of its instruction's word. -/
theorem decode_eq_legal_iff {cmd : Cmd} {i : Instr} : decode cmd = .legal i ↔ encode i = cmd := by
  constructor
  · intro h
    rcases decode_cases cmd with
      ⟨-, hd⟩ | ⟨-, -, hd⟩ | ⟨-, -, -, hd⟩ | ⟨j, hop, -, -, hbyte, hd⟩ <;> rw [hd] at h <;> cases h
    rw [encode_eq_append, hbyte, ← hop, opField_append_descField]
  · rintro rfl
    exact decode_encode i

/-! ### Legality by the fields of a word -/

/-- The table lacks just the descriptors with 64-bit elements (spec/10_state.md R21). -/
theorem lookup_eq_none_iff {d : LaneDescriptor} (hd : d.wf = true) :
    lookup .halvingAdd d = none ↔ d.elementWidthBits = 64 := by
  have hall : ∀ e ∈ wfDescriptors, (lookup .halvingAdd e = none ↔ e.elementWidthBits = 64) := by decide
  exact hall d (mem_wfDescriptors_of_wf hd)

/-- A well-formed byte has no table entry where its width code says 64 bits (spec/30_encoding.md R54). -/
theorem lookup_descriptorFields_eq_none_iff {desc : Tag} (h : wfDesc desc = true) :
    lookup .halvingAdd (descriptorFields desc) = none ↔ widthOfCode (ewcField desc) = 64 := by
  obtain ⟨-, -, hd⟩ := (wfDesc_iff desc).mp h
  exact lookup_eq_none_iff hd

/-- The legality condition of R51, with the width condition as "not 64". -/
theorem isLegal_decode_iff (cmd : Cmd) :
    (decode cmd).isLegal = true ↔
      opField cmd = opHadd ∧ wfDesc (descField cmd) = true ∧ widthOfCode (ewcField (descField cmd)) ≠ 64 := by
  rcases decode_cases cmd with
    ⟨hop, hd⟩ | ⟨-, hwf, hd⟩ | ⟨-, hwf, hnone, hd⟩ | ⟨i, hop, hwf, hfields, -, hd⟩ <;> rw [hd]
  · simp [Decoded.isLegal, hop]
  · simp [Decoded.isLegal, hwf]
  · simp [Decoded.isLegal, (lookup_descriptorFields_eq_none_iff hwf).mp hnone]
  · have hsome : lookup .halvingAdd (descriptorFields (descField cmd)) ≠ none := by
      simp [hfields, lookup_descriptor]
    exact iff_of_true rfl ⟨hop, hwf, fun h64 => hsome ((lookup_descriptorFields_eq_none_iff hwf).mpr h64)⟩

theorem widthOfCode_ne_64_iff (ewc : BitVec 2) :
    widthOfCode ewc ≠ 64 ↔ widthOfCode ewc = 8 ∨ widthOfCode ewc = 16 ∨ widthOfCode ewc = 32 := by
  have hmem := widthOfCode_mem ewc
  omega

/-- Settles O2: decoding inverts encoding, a word is legal by its fields, a legal word's byte is its instruction's, and
the rows of the table are read off the encoder. -/
theorem legalWordsAreTheTwelveEncodings : Obligations.LegalWordsAreTheTwelveEncodings := by
  unfold Obligations.LegalWordsAreTheTwelveEncodings
  refine ⟨fun cmd i => decode_eq_legal_iff, ?_, ?_, ?_⟩
  · intro cmd
    rw [isLegal_decode_iff, widthOfCode_ne_64_iff, opHadd]
  · intro cmd i h
    obtain rfl := decode_eq_legal_iff.mp h
    exact ⟨(descField_encode_spec i).2, lookup_descriptor i⟩
  · simp only [decode_eq_legal_iff]
    decide

/-- Settles O1: each word is the one the encoder writes for its instruction, so it decodes to that instruction. -/
theorem tableWordsDecodeAsWritten : Obligations.TableWordsDecodeAsWritten := by
  unfold Obligations.TableWordsDecodeAsWritten
  exact ⟨decode_encode .haddS8, decode_encode .haddS16, decode_encode .haddS32,
    decode_encode .haddU8, decode_encode .haddU16, decode_encode .haddU32,
    decode_encode .haddqS8, decode_encode .haddqS16, decode_encode .haddqS32,
    decode_encode .haddqU8, decode_encode .haddqU16, decode_encode .haddqU32⟩

end Sys2Proof
end

section
/-! SUPPORT. The illegal command words (spec/30_encoding.md R54): the class of each, the step's answer to it, and the
number of words in each class, counted over the two bytes of a word. -/

namespace Sys2Proof.Machine

open Sys2Proof.Claims

/-! ### The class of an illegal word -/

/-- The class of a command word that no instruction has, in the order of R54. -/
def illegalClass (cmd : Cmd) : RejectCode :=
  if opField cmd ≠ opHadd then .errOp else if wfDesc (descField cmd) = false then .errDesc else .errNoKernel

/-- A word that is no instruction's decodes to the reject of its class. -/
theorem decode_eq_illegalClass {cmd : Cmd} (h : ∀ i : Instr, encode i ≠ cmd) :
    decode cmd = .illegal (illegalClass cmd) := by
  rcases decode_cases cmd with
    ⟨hop, hd⟩ | ⟨hop, hwf, hd⟩ | ⟨hop, hwf, -, hd⟩ | ⟨i, -, -, -, -, hd⟩
  · rw [hd, illegalClass, if_pos hop]
  · rw [hd, illegalClass, if_neg (not_not_intro hop), if_pos hwf]
  · rw [hd, illegalClass, if_neg (not_not_intro hop), if_neg (by simp [hwf])]
  · exact absurd (decode_eq_legal_iff.mp hd) (h i)

/-- Of the well-formed words, those that are no instruction's have 64-bit elements. -/
theorem ewcField_of_not_encode {cmd : Cmd} (h : ∀ i : Instr, encode i ≠ cmd) (hop : opField cmd = opHadd)
    (hwf : wfDesc (descField cmd) = true) : ewcField (descField cmd) = 3 := by
  rw [← widthOfCode_eq_64_iff]
  by_contra hne
  have hlegal := (isLegal_decode_iff cmd).mpr ⟨hop, hwf, hne⟩
  rw [decode_eq_illegalClass h] at hlegal
  exact absurd hlegal Bool.false_ne_true

/-- The words with 64-bit elements are the four of R54. -/
theorem eq_of_ewcField_eq_three {cmd : Cmd} (hop : opField cmd = opHadd) (hwf : wfDesc (descField cmd) = true)
    (hewc : ewcField (descField cmd) = 3) : cmd = 0x0118 ∨ cmd = 0x0119 ∨ cmd = 0x0138 ∨ cmd = 0x0139 := by
  have hbytes : ∀ desc : Tag, wfDesc desc = true → ewcField desc = 3 →
      desc = 0x18 ∨ desc = 0x19 ∨ desc = 0x38 ∨ desc = 0x39 := by decide
  have hcmd : cmd = opHadd ++ descField cmd := by rw [← hop, opField_append_descField]
  rcases hbytes _ hwf hewc with h | h | h | h <;> rw [h] at hcmd
  · exact .inl hcmd
  · exact .inr (.inl hcmd)
  · exact .inr (.inr (.inl hcmd))
  · exact .inr (.inr (.inr hcmd))

/-- A step at a presented illegal word drives the reject of its code. -/
theorem step_of_illegal {s : State} {c : RejectCode} (hv : s.req.valid = true)
    (hd : decode s.req.cmd = .illegal c) : step s = .next { req := s.req, rsp := rejectWith c 0 } := by
  rw [step_eq_responseTo, responseTo_of_valid hv, applyProcedure_of_illegal hd]
  rfl

/-! ### Counting words -/

theorem decode_append_of_ne {op : BitVec 8} (desc : Tag) (h : op ≠ opHadd) :
    decode (op ++ desc) = .illegal .errOp := by
  simp [decode, decodeOperation, h]

/-- The words with one identifier that satisfy a predicate, counted by their descriptor byte. `countWords_eq` ties it
to the count over all words. -/
def countByDesc (p : Decoded → Bool) (op : BitVec 8) : Nat :=
  (List.range 256).countP fun desc => p (decode (op ++ BitVec.ofNat 8 desc))

/-- The 256 words with a reserved identifier are all of the class `ERR_OP`. -/
theorem countByDesc_of_ne (p : Decoded → Bool) {op : BitVec 8} (h : op ≠ opHadd) :
    countByDesc p op = if p (.illegal .errOp) then 256 else 0 := by
  simp only [countByDesc, decode_append_of_ne _ h]
  cases p (.illegal .errOp) <;> simp

/-- A sum over a range whose terms agree but for one. -/
theorem sum_map_range_of_eq_but_one {n a c : Nat} (f : Nat → Nat) (ha : a < n)
    (hf : ∀ k, k < n → k ≠ a → f k = c) : ((List.range n).map f).sum = (n - 1) * c + f a := by
  have hmem : a ∈ Finset.range n := Finset.mem_range.mpr ha
  have hrest : ∀ k ∈ (Finset.range n).erase a, f k = c := fun k hk =>
    hf k (Finset.mem_range.mp (Finset.mem_of_mem_erase hk)) (Finset.ne_of_mem_erase hk)
  calc ((List.range n).map f).sum = ∑ k ∈ Finset.range n, f k := rfl
    _ = ∑ k ∈ (Finset.range n).erase a, f k + f a := (Finset.sum_erase_add _ f hmem).symm
    _ = (n - 1) * c + f a := by
      rw [Finset.sum_const_nat hrest, Finset.card_erase_of_mem hmem, Finset.card_range]

/-- A count over all words is one over the 255 reserved identifiers and one over the halving-add words. -/
theorem countWords_eq (p : Decoded → Bool) :
    countWords p = 255 * (if p (.illegal .errOp) then 256 else 0) + countByDesc p opHadd := by
  refine sum_map_range_of_eq_but_one (a := 1) (fun op => countByDesc p (BitVec.ofNat 8 op)) (by decide) ?_
  intro op hlt hne
  refine countByDesc_of_ne p fun heq => hne ?_
  have hmod : op % 256 = 1 := congrArg BitVec.toNat heq
  rwa [Nat.mod_eq_of_lt hlt] at hmod

/-- Counting over a range in rows of equal length. -/
theorem countP_range_mul (p : Nat → Bool) (m n : Nat) :
    (List.range (m * n)).countP p = ((List.range m).map fun i => (List.range n).countP fun j => p (i * n + j)).sum := by
  induction m with
  | zero => simp
  | succ m ih =>
    rw [Nat.succ_mul, List.range_add, List.countP_append, ih, List.countP_map, List.range_succ, List.map_append,
      List.sum_append]
    simp [Function.comp_def]

/-- The halving-add words, counted in rows of one lane count code each: a row is a value of the byte's upper five bits,
a place in it one of the code (spec/30_encoding.md R44). -/
theorem countByDesc_eq_rows (p : Decoded → Bool) (op : BitVec 8) :
    countByDesc p op
      = ((List.range 32).map fun hi =>
          (List.range 8).countP fun lc => p (decode (op ++ BitVec.ofNat 8 (hi * 8 + lc)))).sum :=
  countP_range_mul _ 32 8

/-- Settles O5: such a word decodes to the reject of its class, which the step drives in every state, and the counts
are those of the halving-add words, read off row by row, beside the reserved identifiers. -/
theorem everyOtherWordIsRejected : Obligations.EveryOtherWordIsRejected := by
  unfold Obligations.EveryOtherWordIsRejected
  refine ⟨?_, ?_⟩
  · intro cmd hcmd
    refine ⟨illegalClass cmd, rfl, ?_, ?_⟩
    · intro hop hwf
      have hewc := ewcField_of_not_encode hcmd hop hwf
      exact ⟨hewc, eq_of_ewcField_eq_three hop hwf hewc⟩
    · rintro s hv rfl
      exact step_of_illegal hv (decode_eq_illegalClass hcmd)
  · simp only [countWords_eq, countByDesc_eq_rows]
    decide

end Sys2Proof.Machine
end

section
/-! SUPPORT. The Lane Vector container (spec/40_lane_vector.md R61, R62, R64): the pattern of an integer in range, the
lanes of a packed vector, and equality as equality of the vectors' bits. -/

namespace Sys2Proof

theorem LaneDescriptor.width_pos_of_wf {d : LaneDescriptor} (hd : d.wf = true) : 0 < d.elementWidthBits := by
  obtain ⟨hW, -⟩ := (LaneDescriptor.wf_iff d).mp hd
  omega

theorem LaneDescriptor.vectorBits_eq_width_mul (d : LaneDescriptor) :
    d.vectorBits = d.elementWidthBits * d.laneCount := Nat.mul_comm _ _

end Sys2Proof

namespace Sys2Proof.Machine

/-! ### Integers and their patterns -/

/-- A value of a type is what its pattern denotes (spec/10_state.md R17). -/
theorem laneVal_ofInt {sgn : Bool} {W : Nat} {n : Int} (hW : 0 < W) (hmin : typeMin sgn W ≤ n)
    (hmax : n ≤ typeMax sgn W) : laneVal sgn (BitVec.ofInt W n) = n := by
  cases sgn with
  | true =>
    have hlt : n < 2 ^ (W - 1) := Int.lt_of_le_sub_one hmax
    exact BitVec.toInt_ofInt_eq_self hW hmin hlt
  | false =>
    have hnonneg : 0 ≤ n := hmin
    have hlt : n < ((2 ^ W : Nat) : Int) := by
      push_cast
      exact Int.lt_of_le_sub_one hmax
    rw [laneVal_unsigned, BitVec.toNat_ofInt, Int.emod_eq_of_lt hnonneg hlt, Int.toNat_of_nonneg hnonneg]

/-- An integer has a pattern, which denotes it, or lies outside the type (spec/40_lane_vector.md R61). -/
theorem patternOfInt?_cases {d : LaneDescriptor} (hd : d.wf = true) (n : Int) :
    (∃ v, patternOfInt? d n = some v ∧ laneVal d.isSigned v = n) ∨
    (patternOfInt? d n = none ∧
      (n < typeMin d.isSigned d.elementWidthBits ∨ typeMax d.isSigned d.elementWidthBits < n)) := by
  by_cases h : typeMin d.isSigned d.elementWidthBits ≤ n ∧ n ≤ typeMax d.isSigned d.elementWidthBits
  · have ⟨hmin, hmax⟩ := h
    exact .inl ⟨_, if_pos h, laneVal_ofInt (LaneDescriptor.width_pos_of_wf hd) hmin hmax⟩
  · exact .inr ⟨if_neg h, by omega⟩

/-! ### Vectors and their images -/

theorem LaneVector.ofList?_isSome (d : LaneDescriptor) (vs : List (BitVec d.elementWidthBits)) :
    (LaneVector.ofList? d vs).isSome = true ↔ vs.length = d.laneCount := by
  simp [LaneVector.ofList?]

theorem PortVector.hasShape_iff {d : LaneDescriptor} {p : PortVector} :
    p.hasShape d = true ↔ encodeDescriptor d = some p.tag := by
  simp [PortVector.hasShape]

theorem get?_of_hasShape {d : LaneDescriptor} {p : PortVector} (hp : p.hasShape d = true) (i : Fin d.laneCount) :
    get? d p i = some (lane d.elementWidthBits p.data i) := if_pos hp

/-- A vector's image has zeros above the vector (spec/10_state.md R26). -/
theorem vectorImage_laneImage {d : LaneDescriptor} (hd : d.wf = true) (v : LaneVector d) :
    vectorImage d.vectorBits (laneImage v) = laneImage v := by
  rw [LaneDescriptor.vectorBits_eq_width_mul, ← packLanes_lane]
  exact packLanes_congr fun i hi => lane_pack_image v hi (LaneDescriptor.fits_of_wf hd)

/-- A lane of a vector's image is the vector's lane (spec/40_lane_vector.md R62). -/
theorem lane_laneImage {d : LaneDescriptor} (hd : d.wf = true) (v : LaneVector d) {i : Nat} (hi : i < d.laneCount) :
    lane d.elementWidthBits (laneImage v) i = v.lane ⟨i, hi⟩ := by
  rw [laneImage, lane_pack_image v hi (LaneDescriptor.fits_of_wf hd)]
  exact List.getD_eq_getElem v.lanes 0 (v.count ▸ hi)

/-- The lanes of a vector's image, in order, are the vector's patterns. -/
theorem map_lane_laneImage {d : LaneDescriptor} (hd : d.wf = true) (v : LaneVector d) :
    (List.range d.laneCount).map (lane d.elementWidthBits (laneImage v)) = v.lanes := by
  refine List.ext_getElem (by simp [v.count]) fun i hi _ => ?_
  have hlane : i < d.laneCount := by simpa using hi
  rw [List.getElem_map, List.getElem_range, lane_laneImage hd v hlane]
  rfl

theorem unpack?_laneImage {d : LaneDescriptor} {desc : Tag} (hd : d.wf = true) (h : encodeDescriptor d = some desc)
    (v : LaneVector d) : unpack? d { tag := desc, data := laneImage v } = some v := by
  rw [unpack?, if_pos (PortVector.hasShape_iff.mpr h)]
  simp only [map_lane_laneImage hd]

/-- Settles O47: a packed vector is its image under the descriptor's byte, and the image's lanes are the vector's. -/
theorem packedLanesReadBack : Obligations.PackedLanesReadBack := by
  unfold Obligations.PackedLanesReadBack
  intro d hd
  refine ⟨fun v => ?_, LaneVector.ofList?_isSome d, fun n => ?_⟩
  · obtain ⟨desc, henc, -⟩ := encodeDescriptor_of_wf hd
    refine ⟨_, pack_of_encodeDescriptor henc v, henc, (vectorImage_laneImage hd v).symm, fun i => ?_,
      unpack?_laneImage hd henc v⟩
    rw [get?_of_hasShape (PortVector.hasShape_iff.mpr henc), lane_laneImage hd v i.isLt]
  · rcases patternOfInt?_cases hd n with ⟨v, hpat, hval⟩ | ⟨hpat, hout⟩
    · rw [hpat]
      exact hval
    · rw [hpat]
      exact hout

/-! ### Equality -/

theorem low_vectorImage {n : Nat} (hn : n ≤ 128) (d : Data) :
    (vectorImage n d).extractLsb' 0 n = d.extractLsb' 0 n := by
  rw [vectorImage, BitVec.extractLsb'_setWidth_of_le (by omega), BitVec.extractLsb'_eq_self,
    BitVec.setWidth_eq_extractLsb' hn]

/-- Two bus images have the same `N` lanes when their `N*W` low bits are the same (spec/40_lane_vector.md R64). -/
theorem lanes_eq_iff_low_eq {W N : Nat} (hfit : W * N ≤ 128) (a b : Data) :
    (∀ i < N, lane W a i = lane W b i) ↔ a.extractLsb' 0 (W * N) = b.extractLsb' 0 (W * N) := by
  constructor
  · intro h
    have himage : vectorImage (W * N) a = vectorImage (W * N) b := by
      rw [← packLanes_lane, ← packLanes_lane, packLanes_congr h]
    rw [← low_vectorImage hfit a, himage, low_vectorImage hfit]
  · intro h i hi
    have hin : W * i + W ≤ W * N := Nat.mul_le_mul_left W hi
    rw [← lane_vectorImage a hin hfit, vectorImage_eq_of_low_eq hfit h, lane_vectorImage b hin hfit]

/-- Equality of two vectors of one shape looks at the bits of the vectors and no others (spec/40_lane_vector.md
R64). -/
theorem veq?_of_hasShape {d : LaneDescriptor} {a b : PortVector} (hd : d.wf = true) (ha : a.hasShape d = true)
    (hb : b.hasShape d = true) :
    veq? d a b = some (decide (a.data.extractLsb' 0 d.vectorBits = b.data.extractLsb' 0 d.vectorBits)) := by
  rw [veq?, if_pos (by simp [ha, hb]), LaneDescriptor.vectorBits_eq_width_mul]
  simp only [← lanes_eq_iff_low_eq (LaneDescriptor.fits_of_wf hd)]
  rw [Option.some_inj, Bool.eq_iff_iff]
  simp

theorem veq?_of_not_hasShape {d : LaneDescriptor} {a b : PortVector}
    (h : a.hasShape d = false ∨ b.hasShape d = false) : veq? d a b = none := by
  rcases h with h | h <;> simp [veq?, h]

/-- Reading every lane of two vectors of one shape tells whether their bits are the same. -/
theorem get?_eq_iff_low_eq {d : LaneDescriptor} {a b : PortVector} (hd : d.wf = true) (ha : a.hasShape d = true)
    (hb : b.hasShape d = true) :
    (∀ i : Fin d.laneCount, get? d a i = get? d b i) ↔
      a.data.extractLsb' 0 d.vectorBits = b.data.extractLsb' 0 d.vectorBits := by
  rw [LaneDescriptor.vectorBits_eq_width_mul, ← lanes_eq_iff_low_eq (LaneDescriptor.fits_of_wf hd)]
  simp only [get?_of_hasShape ha, get?_of_hasShape hb, Option.some_inj, Fin.forall_iff]

/-- Settles O48: equality decides whether the vectors' bits are the same, which is what reading all lanes tells. -/
theorem vectorEqualityIsElementwise : Obligations.VectorEqualityIsElementwise := by
  unfold Obligations.VectorEqualityIsElementwise
  intro d a b hd
  refine ⟨fun ha hb => ⟨_, veq?_of_hasShape hd ha hb, ?_, decide_eq_true_iff⟩, veq?_of_not_hasShape⟩
  rw [get?_eq_iff_low_eq hd ha hb, decide_eq_true_iff]

end Sys2Proof.Machine
end

section
/-! SUPPORT. The halves of a wide vector and the concatenation of two narrow ones (spec/40_lane_vector.md R67 to R69):
the doubled descriptor of a narrow one, and the 64-bit windows of a bus image. -/

namespace Sys2Proof.Machine

/-! ### The doubled descriptor -/

theorem halfDescriptor_doubleDescriptor (d : LaneDescriptor) : halfDescriptor (doubleDescriptor d) = d := by
  simp [halfDescriptor, doubleDescriptor]

theorem vectorBits_doubleDescriptor (d : LaneDescriptor) : (doubleDescriptor d).vectorBits = 2 * d.vectorBits :=
  Nat.mul_assoc 2 d.laneCount d.elementWidthBits

/-- A narrow descriptor doubled is a wide one (spec/40_lane_vector.md R67). -/
theorem family?_doubleDescriptor {d : LaneDescriptor} (hn : d.family? = some .narrow) :
    (doubleDescriptor d).family? = some .wide := by
  have hbits : (doubleDescriptor d).vectorBits = 128 := by
    rw [vectorBits_doubleDescriptor, LaneDescriptor.vectorBits_of_narrow hn]
  rw [LaneDescriptor.family?, hbits]
  rfl

theorem doubleDescriptor_wf {d : LaneDescriptor} (hd : d.wf = true) (hn : d.family? = some .narrow) :
    (doubleDescriptor d).wf = true := by
  obtain ⟨hW, -⟩ := (LaneDescriptor.wf_iff d).mp hd
  have hbits := vectorBits_doubleDescriptor d
  rw [LaneDescriptor.vectorBits_of_narrow hn] at hbits
  exact (LaneDescriptor.wf_iff _).mpr ⟨hW, .inr hbits⟩

/-! ### Windows of a bus image -/

/-- The bits of a 64-bit window that was zero-extended to the bus are the window's. -/
theorem low_zext_window (d : Data) (s : Nat) :
    ((d.extractLsb' s 64).setWidth 128).extractLsb' 0 64 = d.extractLsb' s 64 := by
  rw [BitVec.extractLsb'_setWidth_of_le (by decide), BitVec.extractLsb'_eq_self]

/-- The lanes of a window that begins at lane `n`, renumbered from 0 (spec/40_lane_vector.md R67). -/
theorem lane_zext_window {W n s i : Nat} (d : Data) (hs : s = W * n) (hin : W * i + W ≤ 64) :
    lane W ((d.extractLsb' s 64).setWidth 128) i = lane W d (n + i) := by
  apply BitVec.eq_of_getLsbD_eq
  intro k hk
  have h64 : W * i + k < 64 := by omega
  have h128 : W * i + k < 128 := by omega
  have hpos : s + (W * i + k) = W * (n + i) + k := by
    rw [hs, Nat.mul_add]
    omega
  rw [lane_getLsbD, lane_getLsbD, ← hpos]
  simp [h64, h128]

/-! ### Halves and concatenation of vectors with the right shape -/

section
variable {d : LaneDescriptor} {v : PortVector} {desc : Tag}

theorem halfTag?_doubleDescriptor (hn : d.family? = some .narrow) (hv : v.hasShape (doubleDescriptor d) = true) :
    halfTag? (doubleDescriptor d) v = encodeDescriptor d := by
  rw [halfTag?, if_pos ⟨family?_doubleDescriptor hn, hv⟩, halfDescriptor_doubleDescriptor]

theorem lo?_doubleDescriptor (hn : d.family? = some .narrow) (hv : v.hasShape (doubleDescriptor d) = true)
    (h : encodeDescriptor d = some desc) :
    lo? (doubleDescriptor d) v = some { tag := desc, data := (v.data.extractLsb' 0 64).setWidth 128 } := by
  rw [lo?, halfTag?_doubleDescriptor hn hv, h, Option.map_some]

theorem hi?_doubleDescriptor (hn : d.family? = some .narrow) (hv : v.hasShape (doubleDescriptor d) = true)
    (h : encodeDescriptor d = some desc) :
    hi? (doubleDescriptor d) v = some { tag := desc, data := (v.data.extractLsb' 64 64).setWidth 128 } := by
  rw [hi?, halfTag?_doubleDescriptor hn hv, h, Option.map_some]

theorem cat?_of_hasShape {x y : PortVector} (hn : d.family? = some .narrow) (hx : x.hasShape d = true)
    (hy : y.hasShape d = true) (h : encodeDescriptor (doubleDescriptor d) = some desc) :
    cat? d x y = some { tag := desc, data := y.data.extractLsb' 0 64 ++ x.data.extractLsb' 0 64 } := by
  rw [cat?, if_pos ⟨hn, hx, hy⟩, h, Option.map_some]

/-- Two narrow vectors are equal when their low 64 bits are (spec/40_lane_vector.md R64). -/
theorem veq?_eq_true_of_narrow {a b : PortVector} (hd : d.wf = true) (hn : d.family? = some .narrow)
    (ha : a.hasShape d = true) (hb : b.hasShape d = true)
    (hlow : a.data.extractLsb' 0 64 = b.data.extractLsb' 0 64) : veq? d a b = some true := by
  rw [veq?_of_hasShape hd ha hb, LaneDescriptor.vectorBits_of_narrow hn, decide_eq_true hlow]

/-- The lanes of a window that begins at lane `n`, for the lanes of a narrow descriptor. -/
theorem lane_zext_window_of_narrow {n s i : Nat} (hn : d.family? = some .narrow) (p : Data)
    (hs : s = d.elementWidthBits * n) (hi : i < d.laneCount) :
    lane d.elementWidthBits ((p.extractLsb' s 64).setWidth 128) i = lane d.elementWidthBits p (n + i) := by
  refine lane_zext_window p hs ?_
  calc d.elementWidthBits * i + d.elementWidthBits ≤ d.elementWidthBits * d.laneCount := Nat.mul_le_mul_left _ hi
    _ = d.vectorBits := d.vectorBits_eq_width_mul.symm
    _ ≤ 64 := (LaneDescriptor.vectorBits_of_narrow hn).le

end

/-- Settles O49: the halves are the two 64-bit windows of the image and the concatenation puts them side by side, so
each undoes the other; the high window begins at lane `N` as `N*W` is 64. -/
theorem halvesAndConcatenationAreInverse : Obligations.HalvesAndConcatenationAreInverse := by
  unfold Obligations.HalvesAndConcatenationAreInverse
  intro d hd hn dq
  obtain ⟨desc, henc, -⟩ := encodeDescriptor_of_wf hd
  obtain ⟨descq, hencq, -⟩ := encodeDescriptor_of_wf (doubleDescriptor_wf hd hn)
  have hnarrow (p : Data) : PortVector.hasShape d { tag := desc, data := p } = true := PortVector.hasShape_iff.mpr henc
  have hwide (p : Data) : PortVector.hasShape dq { tag := descq, data := p } = true := PortVector.hasShape_iff.mpr hencq
  constructor
  · rintro ⟨tag, data⟩ hv
    obtain rfl : descq = tag := Option.some_inj.mp (hencq.symm.trans (PortVector.hasShape_iff.mp hv))
    refine ⟨_, _, lo?_doubleDescriptor hn hv henc, hi?_doubleDescriptor hn hv henc, hnarrow _, hnarrow _, ?_, ?_⟩
    · intro i hi
      have hstart : 64 = d.elementWidthBits * d.laneCount := by
        rw [← LaneDescriptor.vectorBits_eq_width_mul, LaneDescriptor.vectorBits_of_narrow hn]
      have hlow := lane_zext_window_of_narrow (n := 0) hn data (Nat.mul_zero _).symm hi
      rw [Nat.zero_add] at hlow
      exact ⟨hlow, lane_zext_window_of_narrow hn data hstart hi⟩
    · rw [cat?_of_hasShape hn (hnarrow _) (hnarrow _) hencq]
      simp only [low_zext_window]
      rw [BitVec.extractLsb'_append_extractLsb' (w := 64) (len := 64)]
  · intro x y hx hy
    refine ⟨_, _, _, cat?_of_hasShape hn hx hy hencq, hwide _, lo?_doubleDescriptor hn (hwide _) henc,
      hi?_doubleDescriptor hn (hwide _) henc, ?_, ?_⟩
    · refine veq?_eq_true_of_narrow hd hn (hnarrow _) hx ?_
      rw [low_zext_window, BitVec.extractLsb'_append_eq_right]
    · refine veq?_eq_true_of_narrow hd hn (hnarrow _) hy ?_
      rw [low_zext_window, BitVec.extractLsb'_append_eq_left]

end Sys2Proof.Machine
end

section
/-! SUPPORT. The lane kernel by value (spec/41_halving_add.md R70 to R73): the value of each of its primitives, and
the widening kernel as the kernel by value at every width and with every accumulator that is wide enough. -/

namespace Sys2Proof.Machine

/-! ### What a lane denotes (spec/10_state.md R17) -/

theorem laneVal_inj (sgn : Bool) {W : Nat} {x y : BitVec W} : laneVal sgn x = laneVal sgn y ↔ x = y := by
  cases sgn with
  | true => exact BitVec.toInt_inj
  | false => exact Int.natCast_inj.trans BitVec.toNat_inj

theorem typeMin_le_laneVal (sgn : Bool) {W : Nat} (x : BitVec W) : typeMin sgn W ≤ laneVal sgn x := by
  cases sgn with
  | true => exact x.le_toInt
  | false => exact Int.natCast_nonneg _

theorem laneVal_le_typeMax (sgn : Bool) {W : Nat} (x : BitVec W) : laneVal sgn x ≤ typeMax sgn W := by
  cases sgn with
  | true => exact Int.le_sub_one_of_lt BitVec.toInt_lt
  | false =>
    have hlt : (x.toNat : Int) < 2 ^ W := mod_cast x.isLt
    exact Int.le_sub_one_of_lt hlt

/-- A lane is the pattern of the integer it denotes. -/
@[simp] theorem ofInt_laneVal (sgn : Bool) {W : Nat} (x : BitVec W) : BitVec.ofInt W (laneVal sgn x) = x := by
  cases sgn <;> simp

/-- Narrowing keeps the integer up to what `W` bits can say of it. -/
theorem setWidth_eq_ofInt_laneVal (sgn : Bool) {W n : Nat} (v : BitVec n) (h : W ≤ n) :
    v.setWidth W = BitVec.ofInt W (laneVal sgn v) := by
  cases sgn with
  | true => exact (BitVec.signExtend_eq_setWidth_of_le v h).symm
  | false => rw [laneVal_unsigned, BitVec.ofInt_natCast, BitVec.ofNat_toNat]

/-- The `W`-bit sum of two lanes is the pattern of their exact sum. -/
theorem add_eq_ofInt_laneVal (sgn : Bool) {W : Nat} (x y : BitVec W) :
    x + y = BitVec.ofInt W (laneVal sgn x + laneVal sgn y) := by
  rw [BitVec.ofInt_add, ofInt_laneVal, ofInt_laneVal]

/-! ### Widen, add, shift -/

theorem laneVal_widen (sgn : Bool) {W n : Nat} (x : BitVec W) (h : W ≤ n) :
    laneVal sgn (widen sgn n x) = laneVal sgn x := by
  cases sgn with
  | true => exact BitVec.toInt_signExtend_of_le h
  | false => rw [laneVal_unsigned, laneVal_unsigned, widen_unsigned, BitVec.toNat_setWidth_of_le h]

/-- The sum of two lanes is in the range of every wider type of their signedness (spec/41_halving_add.md R72, R73). -/
theorem typeMin_le_sum (sgn : Bool) {W n : Nat} (x y : BitVec W) (h : W + 1 ≤ n) :
    typeMin sgn n ≤ laneVal sgn x + laneVal sgn y := by
  cases sgn with
  | true =>
    have hpow : (2 : Int) ^ W ≤ 2 ^ (n - 1) := pow_le_pow_right₀ (by decide) (by omega)
    have hx : -2 ^ W ≤ 2 * x.toInt := BitVec.le_two_mul_toInt
    have hy : -2 ^ W ≤ 2 * y.toInt := BitVec.le_two_mul_toInt
    change -2 ^ (n - 1) ≤ x.toInt + y.toInt
    omega
  | false => exact Int.add_nonneg (Int.natCast_nonneg _) (Int.natCast_nonneg _)

theorem sum_le_typeMax (sgn : Bool) {W n : Nat} (x y : BitVec W) (h : W + 1 ≤ n) :
    laneVal sgn x + laneVal sgn y ≤ typeMax sgn n := by
  cases sgn with
  | true =>
    have hpow : (2 : Int) ^ W ≤ 2 ^ (n - 1) := pow_le_pow_right₀ (by decide) (by omega)
    have hx : 2 * x.toInt < 2 ^ W := BitVec.two_mul_toInt_lt
    have hy : 2 * y.toInt < 2 ^ W := BitVec.two_mul_toInt_lt
    change x.toInt + y.toInt ≤ 2 ^ (n - 1) - 1
    omega
  | false =>
    have hpow : 2 ^ (W + 1) ≤ 2 ^ n := Nat.pow_le_pow_right (by decide) h
    have hlt : x.toNat + y.toNat < 2 ^ n := by
      rw [Nat.pow_succ] at hpow
      omega
    have hlt' : (x.toNat : Int) + y.toNat < 2 ^ n := mod_cast hlt
    exact Int.le_sub_one_of_lt hlt'

/-- One bit more than the lane holds the exact sum (spec/41_halving_add.md R72, R73). -/
theorem laneVal_wideSum (sgn : Bool) {W n : Nat} (x y : BitVec W) (h : W + 1 ≤ n) :
    laneVal sgn (wideSum sgn n x y) = laneVal sgn x + laneVal sgn y := by
  rw [wideSum, add_eq_ofInt_laneVal sgn, laneVal_widen sgn x (by omega), laneVal_widen sgn y (by omega)]
  exact laneVal_ofInt (by omega) (typeMin_le_sum sgn x y h) (sum_le_typeMax sgn x y h)

/-- The shift of a lane's signedness rounds toward negative infinity (spec/41_halving_add.md R72, R73). -/
theorem laneVal_shiftRightOne (sgn : Bool) {n : Nat} (v : BitVec n) :
    laneVal sgn (shiftRightOne sgn v) = floorHalf (laneVal sgn v) := by
  rw [floorHalf_eq]
  cases sgn with
  | true => rw [shiftRightOne_signed, laneVal_signed, BitVec.toInt_sshiftRight, Int.shiftRight_eq_div_pow]; rfl
  | false => simp [Nat.shiftRight_eq_div_pow]

/-! ### Half of an integer -/

/-- The half-sum lies between the two values (spec/41_halving_add.md R77). -/
theorem min_le_floorHalf_add (a b : Int) : min a b ≤ floorHalf (a + b) := by
  rw [floorHalf_eq]
  omega

theorem floorHalf_add_le_max (a b : Int) : floorHalf (a + b) ≤ max a b := by
  rw [floorHalf_eq]
  omega

/-- Truncation toward zero and the floor agree but on odd negative integers (spec/41_halving_add.md R96). -/
theorem floorHalf_eq_tdiv_iff (n : Int) : floorHalf n = n.tdiv 2 ↔ ¬ (n < 0 ∧ n % 2 = 1) := by
  rw [floorHalf_eq, Int.tdiv_eq_ediv]
  split <;> simp <;> omega

/-- On an odd negative integer truncation gives one more than the floor. -/
theorem floorHalf_of_odd_neg {n : Int} (hneg : n < 0) (hodd : n % 2 = 1) : floorHalf n = n.tdiv 2 - 1 := by
  have hcases : ¬ (0 ≤ n ∨ (2 : Int) ∣ n) := by omega
  rw [floorHalf_eq, Int.tdiv_eq_ediv, if_neg hcases]
  exact (Int.add_sub_cancel _ _).symm

/-! ### The kernel by value -/

/-- The half-sum of two lanes is in the range of their type, so that narrowing loses nothing. -/
theorem typeMin_le_halfSum (sgn : Bool) {W : Nat} (x y : BitVec W) :
    typeMin sgn W ≤ floorHalf (laneVal sgn x + laneVal sgn y) :=
  (le_min (typeMin_le_laneVal sgn x) (typeMin_le_laneVal sgn y)).trans (min_le_floorHalf_add _ _)

theorem halfSum_le_typeMax (sgn : Bool) {W : Nat} (x y : BitVec W) :
    floorHalf (laneVal sgn x + laneVal sgn y) ≤ typeMax sgn W :=
  (floorHalf_add_le_max _ _).trans (max_le (laneVal_le_typeMax sgn x) (laneVal_le_typeMax sgn y))

theorem laneVal_haddVal (sgn : Bool) {W : Nat} (x y : BitVec W) :
    laneVal sgn (haddVal sgn x y) = floorHalf (laneVal sgn x + laneVal sgn y) := by
  rcases Nat.eq_zero_or_pos W with rfl | hW
  · simp only [BitVec.eq_nil]
    cases sgn <;> rfl
  · exact laneVal_ofInt hW (typeMin_le_halfSum sgn x y) (halfSum_le_typeMax sgn x y)

/-- The widening kernel is the kernel by value, with any accumulator that holds the exact sum. -/
theorem haddLaneIn_eq_haddVal (sgn : Bool) {W n : Nat} (x y : BitVec W) (h : W + 1 ≤ n) :
    haddLaneIn n sgn x y = haddVal sgn x y := by
  rw [haddLaneIn, setWidth_eq_ofInt_laneVal sgn _ (by omega), laneVal_shiftRightOne, laneVal_wideSum sgn x y h, haddVal]

theorem haddLane_eq_haddVal (sgn : Bool) {W : Nat} (x y : BitVec W) : haddLane sgn x y = haddVal sgn x y :=
  haddLaneIn_eq_haddVal sgn x y le_rfl

theorem laneVal_haddLane (sgn : Bool) {W : Nat} (x y : BitVec W) :
    laneVal sgn (haddLane sgn x y) = floorHalf (laneVal sgn x + laneVal sgn y) := by
  rw [haddLane_eq_haddVal, laneVal_haddVal]

/-- The kernel as the instruction rules write it, one branch per signedness. -/
theorem haddLane_eq_widenedHalf (sgn : Bool) {W : Nat} (x y : BitVec W) :
    haddLane sgn x y = Claims.widenedHalf sgn x y := by
  cases sgn <;> rfl

/-- Settles O8: both sides are the kernel by value. -/
theorem widenedKernelEqualsValueKernel : Obligations.WidenedKernelEqualsValueKernel := by
  unfold Obligations.WidenedKernelEqualsValueKernel
  intro sgn W x y
  refine ⟨haddLane_eq_widenedHalf sgn x y, haddLane_eq_haddVal sgn x y, fun n hn => ?_⟩
  rw [haddLaneIn_eq_haddVal sgn x y hn, haddLane_eq_haddVal]

/-- Settles O7: a lane of the result is the lane kernel's, whose value is the half-sum, and a lane is determined by its
value. -/
theorem laneOfResultIsFloorOfHalfSum : Obligations.LaneOfResultIsFloorOfHalfSum := by
  unfold Obligations.LaneOfResultIsFloorOfHalfSum
  constructor
  · intro sgn W N a b i hfit hi
    rw [lane_haddVec sgn a b hi hfit, laneVal_haddLane]
  · intro sgn W x y
    refine ⟨laneVal_haddVal sgn x y, fun p hp => ?_⟩
    rw [← laneVal_inj sgn, hp, laneVal_haddVal]

/-- Settles O9: the values of the unsigned sum, of its shift and of the kernel's result, read as natural numbers. -/
theorem unsignedSumFitsAndLogicalShiftFloors : Obligations.UnsignedSumFitsAndLogicalShiftFloors := by
  unfold Obligations.UnsignedSumFitsAndLogicalShiftFloors
  intro W x y
  have hsum := laneVal_wideSum false x y le_rfl
  have hshift := laneVal_shiftRightOne false (wideSum false (W + 1) x y)
  have hlane := laneVal_haddLane false x y
  rw [hsum] at hshift
  simp only [laneVal_unsigned, shiftRightOne_unsigned, floorHalf_eq] at hsum hshift hlane
  have hx := x.isLt
  have hy := y.isLt
  have hpow : 2 ^ (W + 1) = 2 ^ W * 2 := pow_succ 2 W
  refine ⟨?_, ?_, ?_, ?_, ?_⟩ <;> omega

/-- Settles O10: the values of the signed sum, of its shift and of the kernel's result, and the ranges of the types. -/
theorem signedSumFitsAndArithmeticShiftFloors : Obligations.SignedSumFitsAndArithmeticShiftFloors := by
  unfold Obligations.SignedSumFitsAndArithmeticShiftFloors
  refine ⟨?_, by decide, by decide⟩
  intro W x y hW
  have hsum : (wideSum true (W + 1) x y).toInt = x.toInt + y.toInt := laneVal_wideSum true x y le_rfl
  have hshift := laneVal_shiftRightOne true (wideSum true (W + 1) x y)
  rw [laneVal_signed, laneVal_signed, hsum] at hshift
  have hlane : (haddLane true x y).toInt = floorHalf (x.toInt + y.toInt) := laneVal_haddLane true x y
  refine ⟨hsum, typeMin_le_sum true x y le_rfl, ?_, hshift, typeMin_le_halfSum true x y, halfSum_le_typeMax true x y,
    hlane, fun hneg hodd => ?_⟩
  · have hx : x.toInt < 2 ^ (W - 1) := BitVec.toInt_lt
    have hy : y.toInt < 2 ^ (W - 1) := BitVec.toInt_lt
    have hpow : (2 : Int) ^ W = 2 * 2 ^ (W - 1) := (mul_pow_sub_one hW.ne' 2).symm
    omega
  · rw [hlane, floorHalf_of_odd_neg hneg hodd]

end Sys2Proof.Machine
end

section
/-! SUPPORT. The other forms of the lane kernel (spec/41_halving_add.md R75): the bits of the sum, the carry out, and
the form that needs no wider accumulator. -/

namespace Sys2Proof.Machine

/-! ### Bits of the sum -/

/-- Bits `W` to 1 of the sum are what shifting by one and narrowing leave, whichever bit the shift fills in. -/
theorem haddLane_eq_haddLaneBySumBits (sgn : Bool) {W : Nat} (x y : BitVec W) :
    haddLane sgn x y = haddLaneBySumBits sgn x y := by
  apply BitVec.eq_of_getLsbD_eq
  intro k hk
  have hin : 1 + k < W + 1 := by omega
  have hge : ¬ W + 1 ≤ k := by omega
  rw [haddLane, haddLaneIn, haddLaneBySumBits]
  cases sgn with
  | true => simp [BitVec.getLsbD_sshiftRight, Config.accumulatorBits, hk, hin, hge]
  | false => simp [Config.accumulatorBits, hk]

/-! ### The carry out -/

/-- Bit `W` of a lane widened past it. -/
theorem getLsbD_widen_top (sgn : Bool) {W : Nat} (x : BitVec W) :
    (widen sgn (W + 1) x).getLsbD W = (sgn && x.msb) := by
  cases sgn with
  | true =>
    rw [widen_signed, BitVec.getLsbD_signExtend]
    simp
  | false => simp

/-- Widening leaves the low bits. -/
theorem setWidth_widen (sgn : Bool) {W : Nat} (x : BitVec W) : (widen sgn (W + 1) x).setWidth W = x := by
  rw [setWidth_eq_ofInt_laneVal sgn _ (Nat.le_succ W), laneVal_widen sgn x (Nat.le_succ W), ofInt_laneVal]

theorem toNat_widen_mod (sgn : Bool) {W : Nat} (x : BitVec W) :
    (widen sgn (W + 1) x).toNat % 2 ^ W = x.toNat := by
  rw [← BitVec.toNat_setWidth, setWidth_widen]

/-- The carry into bit `W` of the widened sum is the carry out of the lane's own width. -/
theorem carry_widen (sgn : Bool) {W : Nat} (x y : BitVec W) :
    BitVec.carry W (widen sgn (W + 1) x) (widen sgn (W + 1) y) false = carryOut x y := by
  simp [BitVec.carry, carryOut, toNat_widen_mod]

/-- Below bit `W` the widened sum is the lane's own sum. -/
theorem getLsbD_wideSum_of_lt (sgn : Bool) {W k : Nat} (x y : BitVec W) (hk : k < W) :
    (wideSum sgn (W + 1) x y).getLsbD k = (x + y).getLsbD k := by
  have hlow : (wideSum sgn (W + 1) x y).setWidth W = x + y := by
    rw [wideSum, BitVec.setWidth_add _ _ (Nat.le_succ W), setWidth_widen, setWidth_widen]
  rw [← hlow]
  simp [hk]

/-- Bit `W` of the widened sum. -/
theorem getLsbD_wideSum_top (sgn : Bool) {W : Nat} (x y : BitVec W) :
    (wideSum sgn (W + 1) x y).getLsbD W
      = if sgn then (carryOut x y).xor (x.msb.xor y.msb) else carryOut x y := by
  rw [wideSum, BitVec.getLsbD_add (Nat.lt_succ_self W), getLsbD_widen_top, getLsbD_widen_top, carry_widen]
  cases sgn with
  | true => simp [Bool.xor_comm]
  | false => simp

theorem haddLaneBySumBits_eq_haddLaneByCarry (sgn : Bool) {W : Nat} (x y : BitVec W) :
    haddLaneBySumBits sgn x y = haddLaneByCarry sgn x y := by
  apply BitVec.eq_of_getLsbD_eq
  intro k hk
  have hbit : (haddLaneBySumBits sgn x y).getLsbD k = (wideSum sgn (W + 1) x y).getLsbD (k + 1) := by
    simp [haddLaneBySumBits, hk, Nat.add_comm]
  rw [hbit, haddLaneByCarry, ← getLsbD_wideSum_top]
  rcases Nat.lt_or_ge (k + 1) W with hlow | htop
  · have hpos : k < W - 1 := by omega
    rw [getLsbD_wideSum_of_lt sgn x y hlow]
    simp [hpos, Nat.add_comm]
  · obtain rfl : W = k + 1 := by omega
    simp

/-! ### Conjunction and exclusive or -/

/-- Adding bit by bit: each common bit counts twice, each single bit once. -/
theorem two_mul_and_add_xor (m n : Nat) : 2 * (m &&& n) + (m ^^^ n) = m + n := by
  induction m using Nat.strong_induction_on generalizing n with
  | _ m ih =>
    rcases Nat.eq_zero_or_pos m with rfl | hm
    · simp
    · have hhalf := ih (m / 2) (Nat.div_lt_self hm (by decide)) (n / 2)
      rw [← Nat.and_div_two, ← Nat.xor_div_two] at hhalf
      have hand : (m &&& n) % 2 = 1 ↔ m % 2 = 1 ∧ n % 2 = 1 := Nat.and_mod_two_eq_one
      have hxor : (m ^^^ n) % 2 = (m + n) % 2 := Nat.xor_mod_two_eq
      omega

/-- The sum of two lanes from their common and their single bits; a sign bit counts negatively on both sides. -/
theorem laneVal_add_laneVal_eq_and_xor (sgn : Bool) {W : Nat} (x y : BitVec W) :
    laneVal sgn x + laneVal sgn y = 2 * laneVal sgn (x &&& y) + laneVal sgn (x ^^^ y) := by
  have hnat : 2 * (x &&& y).toNat + (x ^^^ y).toNat = x.toNat + y.toNat := two_mul_and_add_xor _ _
  cases sgn with
  | true =>
    simp only [laneVal_signed, BitVec.toInt_eq_msb_cond, BitVec.msb_and, BitVec.msb_xor]
    cases x.msb <;> cases y.msb <;> simp [-BitVec.toNat_and, -BitVec.toNat_xor] <;> omega
  | false =>
    simp only [laneVal_unsigned]
    omega

/-- Half of the double of the common bits is exact, so only the single bits are shifted (spec/41_halving_add.md R75). -/
theorem haddLane_eq_haddLaneByAndXor (sgn : Bool) {W : Nat} (x y : BitVec W) :
    haddLane sgn x y = haddLaneByAndXor sgn x y := by
  have hhalf : floorHalf (laneVal sgn x + laneVal sgn y)
      = laneVal sgn (x &&& y) + laneVal sgn (shiftRightOne sgn (x ^^^ y)) := by
    rw [laneVal_add_laneVal_eq_and_xor, laneVal_shiftRightOne, floorHalf_eq, floorHalf_eq]
    omega
  rw [haddLane_eq_haddVal, haddVal, hhalf, ← add_eq_ofInt_laneVal, haddLaneByAndXor]

/-- Settles O11: each form is the kernel, the one from the carry by way of the bits of the sum. -/
theorem fourFormsOfLaneKernelAgree : Obligations.FourFormsOfLaneKernelAgree := by
  unfold Obligations.FourFormsOfLaneKernelAgree
  intro sgn W x y
  have hbits := haddLane_eq_haddLaneBySumBits sgn x y
  exact ⟨hbits, hbits.trans (haddLaneBySumBits_eq_haddLaneByCarry sgn x y), haddLane_eq_haddLaneByAndXor sgn x y⟩

end Sys2Proof.Machine
end

section
/-! SUPPORT. Range and rounding of the lane kernel (spec/41_halving_add.md R74, R77, R96, R97), and what an instruction
answers when both tags are its own. -/

namespace Sys2Proof.Machine

open Sys2Proof.Claims

/-! ### The answer under the right tags -/

/-- With both tags its own, an instruction answers OK with the vector kernel's result (spec/42_dispatch.md R104). -/
theorem exec_of_tags {i : Instr} {s : State} (hl : s.req.lhsTag = descField (encode i))
    (hr : s.req.rhsTag = descField (encode i)) :
    exec i s = .next
      { req := s.req
        rsp := okWith (descField (encode i))
          (haddVec i.descriptor.isSigned i.descriptor.elementWidthBits i.descriptor.laneCount
            s.req.lhsData s.req.rhsData) } :=
  (exec_eq_runKernel i s).trans (runKernel_of_match _ _ _ hl hr)

theorem descriptor_wf (i : Instr) : i.descriptor.wf = true := (shape_statement i).1

/-- The lanes of an instruction fit the bus. -/
theorem descriptor_fits (i : Instr) : i.descriptor.elementWidthBits * i.descriptor.laneCount ≤ 128 :=
  LaneDescriptor.fits_of_wf (descriptor_wf i)

/-! ### Range -/

/-- Settles O15: the value of a result lane is a half-sum, which lies between its summands. -/
theorem resultLiesBetweenOperands : Obligations.ResultLiesBetweenOperands := by
  unfold Obligations.ResultLiesBetweenOperands
  refine ⟨fun sgn W x y => ?_, fun sgn W x y _ => ⟨typeMin_le_laneVal sgn _, laneVal_le_typeMax sgn _⟩,
    fun i s hl hr => ⟨_, exec_of_tags hl hr, rfl⟩⟩
  rw [laneVal_haddLane]
  exact ⟨min_le_floorHalf_add _ _, floorHalf_add_le_max _ _⟩

/-- Twice an extreme of a type is outside the type (spec/41_halving_add.md R74). -/
theorem typeMax_lt_two_mul {W : Nat} (hW : 0 < W) : typeMax false W < 2 * typeMax false W := by
  have hpow : (1 : Int) < 2 ^ W := one_lt_pow₀ (by decide) hW.ne'
  change (2 : Int) ^ W - 1 < 2 * (2 ^ W - 1)
  omega

theorem two_mul_typeMin_lt (W : Nat) : 2 * typeMin true W < typeMin true W := by
  have hpow : (0 : Int) < 2 ^ (W - 1) := by positivity
  change 2 * -(2 : Int) ^ (W - 1) < -2 ^ (W - 1)
  omega

/-- Settles O12: the extremes overflow, the widened sum is exact, and lane 0 of the example is the lane kernel's. -/
theorem accumulatorIsWiderThanTheLane : Obligations.AccumulatorIsWiderThanTheLane := by
  unfold Obligations.AccumulatorIsWiderThanTheLane
  refine ⟨fun W hW => ⟨typeMax_lt_two_mul hW, two_mul_typeMin_lt W⟩,
    fun sgn W x y _ => ⟨laneVal_wideSum sgn x y le_rfl, rfl⟩, ?_, by decide⟩
  intro s hl hr ha hb
  refine ⟨_, exec_of_tags (i := .haddU32) hl hr, rfl, ?_⟩
  have hlane : lane 32 (haddVec false 32 2 s.req.lhsData s.req.rhsData) 0 = haddLane false 0xFFFFFFFF 0xFFFFFFFF := by
    rw [lane_haddVec false _ _ (by decide) (by decide), ha, hb]
  exact hlane.trans (by decide)

/-! ### The kernel that wraps -/

/-- The lane's own sum is exact when the exact sum is in the type's range (spec/41_halving_add.md R97). -/
theorem laneVal_add_eq_iff (sgn : Bool) {W : Nat} (x y : BitVec W) (hW : 0 < W) :
    laneVal sgn (x + y) = laneVal sgn x + laneVal sgn y ↔
      typeMin sgn W ≤ laneVal sgn x + laneVal sgn y ∧ laneVal sgn x + laneVal sgn y ≤ typeMax sgn W := by
  constructor
  · intro h
    rw [← h]
    exact ⟨typeMin_le_laneVal sgn _, laneVal_le_typeMax sgn _⟩
  · rintro ⟨hmin, hmax⟩
    rw [add_eq_ofInt_laneVal sgn, laneVal_ofInt hW hmin hmax]

/-- Wrapping keeps the parity of an integer: it changes it by a multiple of `2^W`. -/
theorem laneVal_ofInt_emod_two (sgn : Bool) {W : Nat} (n : Int) (hW : 0 < W) :
    laneVal sgn (BitVec.ofInt W n) % 2 = n % 2 := by
  have hdvd : (2 : Int) ∣ ((2 ^ W : Nat) : Int) := mod_cast dvd_pow_self 2 hW.ne'
  cases sgn with
  | true =>
    rw [laneVal_signed, BitVec.toInt_ofInt, ← Int.emod_emod_of_dvd _ hdvd, Int.bmod_emod, Int.emod_emod_of_dvd _ hdvd]
  | false =>
    have hpos : (0 : Int) < ((2 ^ W : Nat) : Int) := mod_cast Nat.two_pow_pos W
    rw [laneVal_unsigned, BitVec.toNat_ofInt, Int.toNat_of_nonneg (Int.emod_nonneg _ hpos.ne'),
      Int.emod_emod_of_dvd _ hdvd]

/-- Integers of one parity have the same half only if they are equal. -/
theorem floorHalf_inj_of_emod_two_eq {m n : Int} (h : m % 2 = n % 2) : floorHalf m = floorHalf n ↔ m = n := by
  rw [floorHalf_eq, floorHalf_eq]
  omega

/-- Settles O13: the wrapped and the exact sum have one parity, so their halves agree when the sums do. -/
theorem wrappedKernelDiffersExactlyOnOverflow : Obligations.WrappedKernelDiffersExactlyOnOverflow := by
  unfold Obligations.WrappedKernelDiffersExactlyOnOverflow
  refine ⟨?_, by decide, by decide⟩
  intro sgn W x y hW
  have hparity : laneVal sgn (x + y) % 2 = (laneVal sgn x + laneVal sgn y) % 2 := by
    rw [add_eq_ofInt_laneVal sgn, laneVal_ofInt_emod_two sgn _ hW]
  rw [← laneVal_add_eq_iff sgn x y hW, ← floorHalf_inj_of_emod_two_eq hparity, ← laneVal_inj sgn, wrappedHalf,
    laneVal_shiftRightOne, laneVal_haddLane]

/-! ### Floor against truncation -/

/-- A negative sum needs signed lanes. -/
theorem signed_of_sum_neg {sgn : Bool} {W : Nat} {x y : BitVec W} (h : laneVal sgn x + laneVal sgn y < 0) :
    sgn = true := by
  cases sgn with
  | true => rfl
  | false =>
    rw [laneVal_unsigned, laneVal_unsigned] at h
    omega

/-- Settles O14: the value of a result lane is the floor, which differs from truncation on odd negative sums. -/
theorem floorAndTruncationDifferOnOddNegativeSums : Obligations.FloorAndTruncationDifferOnOddNegativeSums := by
  unfold Obligations.FloorAndTruncationDifferOnOddNegativeSums
  refine ⟨?_, by decide, by decide⟩
  intro sgn W x y sum
  have hlane : laneVal sgn (haddLane sgn x y) = floorHalf sum := laneVal_haddLane sgn x y
  rw [hlane]
  refine ⟨(not_congr (floorHalf_eq_tdiv_iff sum)).trans not_not, fun hneg hodd => ?_⟩
  refine ⟨signed_of_sum_neg hneg, ?_, floorHalf_of_odd_neg hneg hodd⟩
  rw [floorHalf_eq]
  omega

end Sys2Proof.Machine
end

section
/-! SUPPORT. Laws of the vector kernel (spec/41_halving_add.md R79 to R81, R95), each from the lane kernel's, and the
instructions they carry over to. -/

namespace Sys2Proof.Machine

open Sys2Proof.Claims

/-! ### Commutation -/

theorem haddLane_comm (sgn : Bool) {W : Nat} (x y : BitVec W) : haddLane sgn x y = haddLane sgn y x := by
  rw [haddLane, haddLane, haddLaneIn, haddLaneIn, wideSum, wideSum, BitVec.add_comm]

theorem haddVec_comm (sgn : Bool) (W N : Nat) (a b : Data) : haddVec sgn W N a b = haddVec sgn W N b a :=
  packLanes_congr fun _ _ => haddLane_comm sgn _ _

/-- Settles O16: the swapped request meets the same tags, and its kernel result is the same. -/
theorem halvingAddCommutes : Obligations.HalvingAddCommutes := by
  unfold Obligations.HalvingAddCommutes
  refine ⟨haddVec_comm, fun i s hl hr => ⟨_, exec_of_tags hl hr, ?_, rfl⟩⟩
  rw [haddVec_comm]
  exact exec_of_tags (s := swapOperands s) hr hl

/-! ### Fixed points -/

/-- Halving the double of a lane gives the lane (spec/41_halving_add.md R95). -/
theorem haddLane_self (sgn : Bool) {W : Nat} (x : BitVec W) : haddLane sgn x x = x := by
  rw [← laneVal_inj sgn, laneVal_haddLane, floorHalf_eq]
  omega

theorem haddVec_self (sgn : Bool) (W N : Nat) (a : Data) : haddVec sgn W N a a = vectorImage (W * N) a := by
  rw [← packLanes_lane]
  exact packLanes_congr fun _ _ => haddLane_self sgn _

/-- A vector with one value in each lane is its own halving add with itself. -/
theorem haddVec_splat_self (sgn : Bool) {W N : Nat} (v : BitVec W) (hfit : W * N ≤ 128) :
    haddVec sgn W N (splat N v) (splat N v) = splat N v := by
  refine packLanes_congr fun i hi => ?_
  rw [haddLane_self, splat, lane_packLanes _ hi hfit]

theorem laneVal_intMin {W : Nat} (hW : 0 < W) : laneVal true (BitVec.intMin W) = typeMin true W :=
  BitVec.toInt_intMin_of_pos hW

theorem laneVal_allOnes (W : Nat) : laneVal false (BitVec.allOnes W) = typeMax false W := by
  rw [laneVal_unsigned, BitVec.toNat_allOnes, Int.natCast_sub Nat.one_le_two_pow]
  norm_cast

/-- Settles O17: a vector of one value is a fixed point whatever the value is. -/
theorem extremesAreFixedPoints : Obligations.ExtremesAreFixedPoints := by
  unfold Obligations.ExtremesAreFixedPoints
  refine ⟨fun W N hfit => ⟨haddVec_splat_self false _ hfit, haddVec_splat_self true _ hfit⟩, ?_⟩
  intro i s hl hr d extreme hlhs hrhs
  constructor
  · have hW : 0 < d.elementWidthBits := LaneDescriptor.width_pos_of_wf (descriptor_wf i)
    cases hsgn : d.isSigned with
    | true => simpa [extreme, hsgn] using laneVal_intMin hW
    | false => simpa [extreme, hsgn] using laneVal_allOnes _
  · rw [exec_of_tags hl hr, hlhs, hrhs, haddVec_splat_self _ _ (descriptor_fits i)]

theorem lane_zero (W i : Nat) : lane W 0 i = 0 := by
  simp [lane]

theorem laneVal_zero (sgn : Bool) (W : Nat) : laneVal sgn (0 : BitVec W) = 0 := by
  cases sgn <;> simp

/-- Settles O18: lane by lane, a value with itself gives the value and with zero its half. -/
theorem sameVectorIsFixedPoint : Obligations.SameVectorIsFixedPoint := by
  unfold Obligations.SameVectorIsFixedPoint
  refine fun sgn W N a => ⟨haddVec_self sgn W N a, fun hfit i hi => ?_⟩
  rw [lane_haddVec sgn a 0 hi hfit, laneVal_haddLane, lane_zero, laneVal_zero, Int.add_zero]

/-! ### Independence -/

/-- Settles O19: lane `j` of either result is the lane kernel on lanes `j` of the operands. -/
theorem lanesAreIndependent : Obligations.LanesAreIndependent := by
  unfold Obligations.LanesAreIndependent
  intro i s s' j d W hl hr hl' hr' hj hlhs hrhs
  refine ⟨_, _, exec_of_tags hl hr, exec_of_tags hl' hr', rfl, rfl, ?_⟩
  have hfit := descriptor_fits i
  calc lane W (haddVec d.isSigned W d.laneCount s.req.lhsData s.req.rhsData) j
      = haddLane d.isSigned (lane W s.req.lhsData j) (lane W s.req.rhsData j) := lane_haddVec _ _ _ hj hfit
    _ = haddLane d.isSigned (lane W s'.req.lhsData j) (lane W s'.req.rhsData j) := by rw [hlhs, hrhs]
    _ = lane W (haddVec d.isSigned W d.laneCount s'.req.lhsData s'.req.rhsData) j :=
        (lane_haddVec _ _ _ hj hfit).symm

end Sys2Proof.Machine
end

section
/-! SUPPORT. A wide result by halves (spec/41_halving_add.md R82): the 64-bit windows of the wide kernel's result, and
the wide instructions beside their narrow siblings. -/

namespace Sys2Proof.Machine

open Sys2Proof.Claims

/-! ### The kernel on windows -/

/-- A 64-bit window of the wide kernel's result that begins at lane `n` is the narrow kernel on the operands' windows:
lane `i` of either is the lane kernel on lanes `n + i`. -/
theorem window_haddVec (sgn : Bool) {W N n s : Nat} (a b : Data) (hbits : W * N = 64) (hs : s = W * n) (hn : n ≤ N) :
    (haddVec sgn W (2 * N) a b).extractLsb' s 64
      = (haddVec sgn W N ((a.extractLsb' s 64).setWidth 128) ((b.extractLsb' s 64).setWidth 128)).extractLsb' 0 64 := by
  have hfit : W * (2 * N) ≤ 128 := by
    rw [Nat.mul_left_comm]
    omega
  have hfitN : W * N ≤ 128 := by omega
  rw [← low_zext_window (haddVec sgn W (2 * N) a b) s, ← hbits, ← lanes_eq_iff_low_eq hfitN, hbits]
  intro i hi
  have hin : W * i + W ≤ 64 := hbits ▸ Nat.mul_le_mul_left W hi
  rw [lane_haddVec sgn _ _ hi hfitN, lane_zext_window _ hs hin, lane_zext_window _ hs hin, lane_zext_window _ hs hin,
    lane_haddVec sgn _ _ (by omega) hfit]

theorem halvesAgree (sgn : Bool) {W N : Nat} (hbits : W * N = 64) : HalvesAgree sgn W N := fun a b =>
  ⟨window_haddVec sgn a b hbits (Nat.mul_zero W).symm (Nat.zero_le N),
    window_haddVec sgn a b hbits hbits.symm le_rfl⟩

/-! ### The instructions -/

/-- The result vector of an instruction on two vectors of its shape. -/
theorem resultOf_of_hasShape {i : Instr} {a b : PortVector} (s : State) (ha : a.hasShape i.descriptor = true)
    (hb : b.hasShape i.descriptor = true) :
    resultOf i a b s = some
      { tag := descField (encode i)
        data := haddVec i.descriptor.isSigned i.descriptor.elementWidthBits i.descriptor.laneCount a.data b.data } := by
  have hl : (s.present (.call (encode i) a b)).req.lhsTag = descField (encode i) :=
    (descField_encode (PortVector.hasShape_iff.mp ha)).symm
  have hr : (s.present (.call (encode i) a b)).req.rhsTag = descField (encode i) :=
    (descField_encode (PortVector.hasShape_iff.mp hb)).symm
  rw [resultOf, exec_of_tags hl hr]
  rfl

/-- The descriptor of a wide instruction is its narrow sibling's, doubled (spec/10_state.md R21). -/
theorem familyPairs_descriptor : ∀ p ∈ familyPairs,
    p.1.descriptor = doubleDescriptor p.2.descriptor ∧ p.2.descriptor.family? = some .narrow := by decide

/-- Settles O20: the kernel's result is put together from its two windows, which the narrow instruction answers on the
operands' halves. -/
theorem wideIsTwoNarrowHalves : Obligations.WideIsTwoNarrowHalves := by
  unfold Obligations.WideIsTwoNarrowHalves
  refine ⟨fun sgn W N hbits => halvesAgree sgn hbits, ?_⟩
  rintro ⟨wide, narrow⟩ hp a b s ha hb
  obtain ⟨hdouble, hn⟩ := familyPairs_descriptor _ hp
  obtain ⟨hencq, -⟩ := descField_encode_spec wide
  obtain ⟨henc, -⟩ := descField_encode_spec narrow
  have hresult := resultOf_of_hasShape s ha hb
  dsimp only at hdouble hn ha hb ⊢
  rw [hdouble] at ha hb hencq hresult ⊢
  have hshape (p : Data) :
      PortVector.hasShape narrow.descriptor { tag := descField (encode narrow), data := p } = true :=
    PortVector.hasShape_iff.mpr henc
  have hbits : narrow.descriptor.elementWidthBits * narrow.descriptor.laneCount = 64 := by
    rw [← LaneDescriptor.vectorBits_eq_width_mul, LaneDescriptor.vectorBits_of_narrow hn]
  refine ⟨_, _, _, _, _, _, _, lo?_doubleDescriptor hn ha henc, hi?_doubleDescriptor hn ha henc,
    lo?_doubleDescriptor hn hb henc, hi?_doubleDescriptor hn hb henc,
    resultOf_of_hasShape s (hshape _) (hshape _), resultOf_of_hasShape s (hshape _) (hshape _), hresult, ?_⟩
  obtain ⟨hlow, hhigh⟩ := halvesAgree narrow.descriptor.isSigned hbits a.data b.data
  rw [cat?_of_hasShape hn (hshape _) (hshape _) hencq, ← hlow, ← hhigh,
    BitVec.extractLsb'_append_extractLsb' (w := 64) (len := 64)]
  rfl

end Sys2Proof.Machine
end

section
/-! SUPPORT. The instruction rules R83 to R94 of spec/41_halving_add.md: what they say of every instruction alike, once,
and the worked examples of each. -/

namespace Sys2Proof.Machine

open Sys2Proof.Claims

/-- With a tag wrong, an instruction rejects and says which (spec/60_exceptions.md R114). -/
theorem exec_of_wrong_tag {i : Instr} {s : State}
    (h : s.req.lhsTag ≠ descField (encode i) ∨ s.req.rhsTag ≠ descField (encode i)) :
    exec i s = .next
      { req := s.req
        rsp := rejectWith .errShape
          (BitVec.ofBool (s.req.rhsTag != descField (encode i)) ++
            BitVec.ofBool (s.req.lhsTag != descField (encode i))) } :=
  (exec_eq_runKernel i s).trans (runKernel_of_mismatch _ _ _ h)

/-- The rule of an instruction, at its own word, byte and descriptor. -/
theorem instructionRule (i : Instr) :
    InstructionRule i (encode i) (descField (encode i)) i.descriptor.isSigned i.descriptor.elementWidthBits
      i.descriptor.laneCount := by
  refine ⟨⟨decode_encode i, rfl, rfl⟩, fun s => exec_of_tags, fun a b k hk => ?_, fun s => exec_of_wrong_tag⟩
  rw [lane_haddVec _ a b hk (descriptor_fits i)]
  exact ⟨haddLane_eq_widenedHalf _ _ _, laneVal_haddLane _ _ _⟩

/-- Settles O22: the rule holds of every instruction, the halves of every narrow shape; the examples are computed. -/
theorem signedByteInstructions : Obligations.SignedByteInstructions := by
  unfold Obligations.SignedByteInstructions Example
  exact ⟨instructionRule .haddS8, instructionRule .haddqS8, halvesAgree true rfl, by decide⟩

/-- Settles O23: the general rule and halves at signed 16-bit lanes, and the computed examples. -/
theorem signedHalfwordInstructions : Obligations.SignedHalfwordInstructions := by
  unfold Obligations.SignedHalfwordInstructions Example
  exact ⟨instructionRule .haddS16, instructionRule .haddqS16, halvesAgree true rfl, by decide⟩

/-- Settles O24: the general rule and halves at signed 32-bit lanes, and the computed examples. -/
theorem signedWordInstructions : Obligations.SignedWordInstructions := by
  unfold Obligations.SignedWordInstructions Example
  exact ⟨instructionRule .haddS32, instructionRule .haddqS32, halvesAgree true rfl, by decide⟩

/-- Settles O25: the general rule and halves at unsigned 8-bit lanes, and the computed examples. -/
theorem unsignedByteInstructions : Obligations.UnsignedByteInstructions := by
  unfold Obligations.UnsignedByteInstructions Example
  exact ⟨instructionRule .haddU8, instructionRule .haddqU8, halvesAgree false rfl, by decide⟩

/-- Settles O26: the general rule and halves at unsigned 16-bit lanes, and the computed examples. -/
theorem unsignedHalfwordInstructions : Obligations.UnsignedHalfwordInstructions := by
  unfold Obligations.UnsignedHalfwordInstructions Example
  exact ⟨instructionRule .haddU16, instructionRule .haddqU16, halvesAgree false rfl, by decide⟩

/-- Settles O27: the general rule and halves at unsigned 32-bit lanes, and the computed examples. -/
theorem unsignedWordInstructions : Obligations.UnsignedWordInstructions := by
  unfold Obligations.UnsignedWordInstructions Example
  exact ⟨instructionRule .haddU32, instructionRule .haddqU32, halvesAgree false rfl, by decide⟩

end Sys2Proof.Machine
end

section
/-! SUPPORT. The dispatch of a request (spec/42_dispatch.md): what the step runs, what every instruction completes with,
which requests get a result, and the multiplexer view of R105. -/

namespace Sys2Proof.Machine

open Sys2Proof.Claims

/-! ### The instruction a step runs -/

/-- Settles O28: of all that a step can do, the decoder's verdict leaves running the instruction. -/
theorem stepRunsDecodedInstruction : Obligations.StepRunsDecodedInstruction := by
  unfold Obligations.StepRunsDecodedInstruction
  intro s i hv hdec
  rcases step_cases s with ⟨hidle, -⟩ | ⟨c, -, hd, -⟩ | ⟨j, -, hd, hs⟩
  · cases hv.symm.trans hidle
  · cases hdec.symm.trans hd
  · cases hdec.symm.trans hd
    exact hs

/-- Settles O30: matching tags lead to the kernel's result; a narrow shape ends at bit 64, where the kernel stops
reading and writing. -/
theorem everyInstructionCompletes : Obligations.EveryInstructionCompletes := by
  unfold Obligations.EveryInstructionCompletes
  intro i s hl hr d data
  refine ⟨exec_of_tags hl hr, fun hn => ⟨?_, ?_⟩⟩
  · have himage : data = vectorImage d.vectorBits data := haddVec_eq_vectorImage d _ _
    rw [himage, LaneDescriptor.vectorBits_of_narrow hn, vectorImage_high]
  · have hfit : d.elementWidthBits * d.laneCount ≤ 64 := by
      rw [← LaneDescriptor.vectorBits_eq_width_mul, LaneDescriptor.vectorBits_of_narrow hn]
    exact (haddVec_vectorImage _ _ _ hfit (by decide)).symm

/-! ### The requests that get a result -/

@[simp] theorem Response.vector?_idle : Response.idle.vector? = none := rfl

@[simp] theorem Response.vector?_rejected (c : RejectCode) (info : Info) :
    (Response.rejected c info).vector? = none := rfl

/-- An instruction gives a result vector when neither operand tag differs from its byte. -/
theorem instrResponse_vector?_isSome (i : Instr) (q : Request) :
    (instrResponse i q).vector?.isSome
      = (q.lhsTag == descField (encode i) && q.rhsTag == descField (encode i)) := by
  have hmatch : (q.lhsTag == descField (encode i) && q.rhsTag == descField (encode i))
      = !(lhsMismatch (descField (encode i)) q || rhsMismatch (descField (encode i)) q) := by
    simp [lhsMismatch, rhsMismatch, bne]
  rw [hmatch, instrResponse]
  split <;> simp [*]

/-- A request is answered with a result vector when it meets the caller contract (spec/70_reset_and_hazards.md R131). -/
theorem responseTo_vector?_isSome (q : Request) : (responseTo q).vector?.isSome = q.legal := by
  rcases responseTo_cases q with ⟨hv, h⟩ | ⟨c, -, hdec, h⟩ | ⟨i, hv, hdec, h⟩ <;> rw [h, Request.legal]
  · simp [hv]
  · simp [hdec, Decoded.isLegal]
  · rw [instrResponse_vector?_isSome, decode_eq_legal_iff.mp hdec]
    simp [hv, hdec, Decoded.isLegal]

/-- Settles O39: the step answers `responseTo`, which holds a result vector for the legal requests. -/
theorem legalRequestsAreTheOnesAnswered : Obligations.LegalRequestsAreTheOnesAnswered := by
  unfold Obligations.LegalRequestsAreTheOnesAnswered
  intro s
  rw [← responseTo_vector?_isSome]
  constructor
  · exact fun h => ⟨_, step_eq_responseTo s, h⟩
  · rintro ⟨t, hstep, h⟩
    cases (step_eq_responseTo s).symm.trans hstep
    exact h

/-! ### What earlier requests leave -/

/-- The last request of a list is answered, and leaves the state, as if it stood alone. -/
theorem serveAll_append_singleton (before : List Request) (q : Request) (s : State) :
    serveAll (before ++ [q]) s = some (before.map responseTo ++ [responseTo q], answered q) := by
  rw [serveAll_eq, List.map_append, List.getLast?_concat]
  rfl

/-- Settles O33: an idle request is answered with zeros, and what precedes a request, idle or not, does not reach it. -/
theorem idleDrivesZerosAndChangesNothing : Obligations.IdleDrivesZerosAndChangesNothing := by
  unfold Obligations.IdleDrivesZerosAndChangesNothing
  constructor
  · intro s hv
    rw [step_eq_responseTo, responseTo_of_idle hv]
    exact ⟨rfl, rfl⟩
  · intro idles q s _
    exact ⟨_, _, _, serveAll_append_singleton idles q s, serveAll_append_singleton [] q s⟩

/-- Settles O41: the response and the state after the last request are functions of that request alone. -/
theorem nothingIsRetained : Obligations.NothingIsRetained := by
  unfold Obligations.NothingIsRetained
  intro before before' q s s'
  exact ⟨_, _, _, _, serveAll_append_singleton before q s, serveAll_append_singleton before' q s'⟩

/-! ### The multiplexer view -/

/-- The kernel on fewer lanes is the kernel on more lanes, cut to the fewer. -/
theorem vectorImage_haddVec_of_le (sgn : Bool) {W N M : Nat} (a b : Data) (h : N ≤ M) :
    vectorImage (W * N) (haddVec sgn W M a b) = haddVec sgn W N a b := by
  apply BitVec.eq_of_getLsbD_eq
  intro k hk
  have hle : W * N ≤ W * M := Nat.mul_le_mul_left W h
  rw [vectorImage_getLsbD, haddVec_getLsbD _ _ _ _ _ hk, haddVec_getLsbD _ _ _ _ _ hk]
  by_cases hin : k < W * N
  · simp [hk, hin, hin.trans_le hle]
  · simp [hin]

/-- The 128-bit arrangement of a descriptor's element type, cut to the descriptor's vector, is its kernel's result. -/
theorem vectorImage_arrangement {d : LaneDescriptor} (hd : d.wf = true) (a b : Data) :
    vectorImage d.vectorBits (arrangement d.isSigned d.elementWidthBits a b)
      = haddVec d.isSigned d.elementWidthBits d.laneCount a b := by
  have hcount : d.laneCount ≤ 128 / d.elementWidthBits := by
    rw [Nat.le_div_iff_mul_le (LaneDescriptor.width_pos_of_wf hd), Nat.mul_comm]
    exact LaneDescriptor.fits_of_wf hd
  rw [LaneDescriptor.vectorBits_eq_width_mul, arrangement, vectorImage_haddVec_of_le _ a b hcount]

/-- A wide vector takes up the whole bus (spec/10_state.md R26). -/
theorem vectorImage_bus (d : Data) : vectorImage 128 d = d := by
  simp [vectorImage]

/-- The selection bits of an instruction pick the arrangement of its element type and the mask of its family: a narrow
arrangement is cut to 64 bits, a wide one passes whole (spec/42_dispatch.md R105). -/
theorem muxData?_encode (i : Instr) (a b : Data) :
    muxData? ((encode i).extractLsb' 0 6) a b
      = some (vectorImage i.descriptor.vectorBits
          (arrangement i.descriptor.isSigned i.descriptor.elementWidthBits a b)) := by
  cases i with
  | haddS8 | haddS16 | haddS32 | haddU8 | haddU16 | haddU32 => rfl
  | haddqS8 | haddqS16 | haddqS32 | haddqU8 | haddqU16 | haddqU32 => exact congrArg some (vectorImage_bus _).symm

/-- Settles O21: the masked arrangement that the multiplexer selects is the kernel's result at the instruction's
descriptor, which matching tags lead to. -/
theorem multiplexerViewAgrees : Obligations.MultiplexerViewAgrees := by
  unfold Obligations.MultiplexerViewAgrees
  intro i s hl hr
  refine ⟨_, exec_of_tags hl hr, rfl, ?_⟩
  rw [muxData?_encode, vectorImage_arrangement (descriptor_wf i)]
  rfl

end Sys2Proof.Machine
end

section
/-! SUPPORT. The rejects (spec/60_exceptions.md): what is wrong with a word that no instruction has, what a step answers
to it and to a wrong operand tag, and what a reject neither carries nor depends on. -/

namespace Sys2Proof.Machine

open Sys2Proof.Claims

/-! ### The faults of a word -/

/-- The three ways in which a byte encodes no Lane Descriptor (spec/60_exceptions.md R112). -/
theorem wfDesc_eq_false_iff (desc : Tag) :
    wfDesc desc = false ↔ rsvField desc ≠ 0 ∨ 4 < (lcField desc).toNat ∨
      ((descriptorFields desc).laneCount * (descriptorFields desc).elementWidthBits ≠ 64 ∧
        (descriptorFields desc).laneCount * (descriptorFields desc).elementWidthBits ≠ 128) := by
  have hproduct : (descriptorFields desc).wf = true ↔
      (descriptorFields desc).laneCount * (descriptorFields desc).elementWidthBits = 64 ∨
        (descriptorFields desc).laneCount * (descriptorFields desc).elementWidthBits = 128 :=
    (LaneDescriptor.wf_iff _).trans (and_iff_right (widthOfCode_mem _))
  rw [← Bool.not_eq_true, wfDesc_iff, hproduct, not_and_or, not_and_or, not_le, not_or]

/-- A word that fails one of the decoder's three checks is rejected with the code of its class. -/
theorem step_of_faulty_word {s : State} (hv : s.req.valid = true)
    (h : ¬ (opField s.req.cmd = opHadd ∧ wfDesc (descField s.req.cmd) = true ∧
      widthOfCode (ewcField (descField s.req.cmd)) ≠ 64)) :
    step s = .next { req := s.req, rsp := rejectWith (illegalClass s.req.cmd) 0 } := by
  refine step_of_illegal hv (decode_eq_illegalClass fun i hi => h ((isLegal_decode_iff _).mp ?_))
  rw [decode_eq_legal_iff.mpr hi]
  rfl

/-- The low bytes of the words with 64-bit elements (spec/60_exceptions.md R113). -/
theorem descField_eq_of_width_eq_64 {cmd : Cmd} (hop : opField cmd = opHadd) (hwf : wfDesc (descField cmd) = true)
    (h64 : widthOfCode (ewcField (descField cmd)) = 64) :
    descField cmd = 0x18 ∨ descField cmd = 0x19 ∨ descField cmd = 0x38 ∨ descField cmd = 0x39 := by
  rcases eq_of_ewcField_eq_three hop hwf ((widthOfCode_eq_64_iff _).mp h64) with rfl | rfl | rfl | rfl <;> decide

/-- Settles O34: each cause fails one of the decoder's checks, and names the class of the word. -/
theorem illegalWordsRaiseTheirCodes : Obligations.IllegalWordsRaiseTheirCodes := by
  unfold Obligations.IllegalWordsRaiseTheirCodes
  intro s hv desc d malformed
  have hmalformed : wfDesc desc = false ↔ malformed := wfDesc_eq_false_iff desc
  refine ⟨fun (hop : _ ≠ opHadd) => ?_, fun (hop : _ = opHadd) hbad => ?_, fun (hop : _ = opHadd) hgood h64 => ?_⟩
  · rw [step_of_faulty_word hv (fun ⟨hop', _⟩ => hop hop'), illegalClass, if_pos hop]
  · have hwf : wfDesc (descField s.req.cmd) = false := hmalformed.mpr hbad
    rw [step_of_faulty_word hv (by simp [hwf]), illegalClass, if_neg (not_not_intro hop), if_pos hwf]
  · have hwf : ¬ wfDesc desc = false := mt hmalformed.mp hgood
    rw [step_of_faulty_word hv (fun ⟨_, _, hne⟩ => hne h64), illegalClass, if_neg (not_not_intro hop), if_neg hwf]
    exact ⟨rfl, descField_eq_of_width_eq_64 hop (eq_true_of_ne_false hwf) h64⟩

/-! ### The answer to a legal word -/

/-- A legal word with an operand tag other than its low byte is rejected with the mismatches as information bits
(spec/60_exceptions.md R114). -/
theorem step_of_wrong_tag {s : State} {i : Instr} (hv : s.req.valid = true) (hd : decode s.req.cmd = .legal i)
    (h : s.req.lhsTag ≠ descField s.req.cmd ∨ s.req.rhsTag ≠ descField s.req.cmd) :
    step s = .next
      { req := s.req
        rsp := rejectWith .errShape
          (mismatchInfo (s.req.lhsTag != descField s.req.cmd) (s.req.rhsTag != descField s.req.cmd)) } := by
  rw [stepRunsDecodedInstruction s i hv hd]
  rw [← decode_eq_legal_iff.mp hd] at h ⊢
  exact exec_of_wrong_tag h

/-- A legal word whose low byte is the tag of both operands is answered with a result. -/
theorem step_of_right_tags {s : State} {i : Instr} (hv : s.req.valid = true) (hd : decode s.req.cmd = .legal i)
    (hl : s.req.lhsTag = descField s.req.cmd) (hr : s.req.rhsTag = descField s.req.cmd) :
    ∃ data, step s = .next { req := s.req, rsp := okWith (descField s.req.cmd) data } := by
  rw [stepRunsDecodedInstruction s i hv hd]
  rw [← decode_eq_legal_iff.mp hd] at hl hr ⊢
  exact ⟨_, exec_of_tags hl hr⟩

/-- Which bit says which operand (spec/60_exceptions.md R114). -/
theorem mismatchInfo_getLsbD : ∀ ml mr : Bool,
    (mismatchInfo ml mr).getLsbD 0 = ml ∧ (mismatchInfo ml mr).getLsbD 1 = mr := by decide

/-- Settles O35: the information bits are the two mismatches, one of which holds. -/
theorem shapeMismatchIsRejected : Obligations.ShapeMismatchIsRejected := by
  unfold Obligations.ShapeMismatchIsRejected
  intro s i hv hd h
  obtain ⟨hbit0, hbit1⟩ :=
    mismatchInfo_getLsbD (s.req.lhsTag != descField s.req.cmd) (s.req.rhsTag != descField s.req.cmd)
  refine ⟨_, step_of_wrong_tag hv hd h, mismatchInfo_ne_zero _ _ (by simpa using h), ?_, ?_⟩
  · rw [hbit0, bne_iff_ne]
  · rw [hbit1, bne_iff_ne]

/-! ### The order of the checks -/

/-- Codes 5 to 7 are never produced (spec/60_exceptions.md R110). -/
theorem statusBits_toNat_le : ∀ status : Status, (statusBits status).toNat ≤ 4
  | .ok | .reject .errOp | .reject .errDesc | .reject .errNoKernel | .reject .errShape => by decide

/-- The width code of a legal word is not that of 64-bit elements. -/
theorem ewcField_of_legal {cmd : Cmd} {i : Instr} (hd : decode cmd = .legal i) : ewcField (descField cmd) ≠ 3 := by
  obtain ⟨-, -, hwidth⟩ := (isLegal_decode_iff cmd).mp (hd ▸ rfl)
  exact mt (widthOfCode_eq_64_iff _).mpr hwidth

/-- Settles O36: the decoder's verdicts are the first three violations in their order; a legal word is left to the
comparison of the tags. -/
theorem firstViolationIsReported : Obligations.FirstViolationIsReported := by
  unfold Obligations.FirstViolationIsReported
  intro s hv desc
  rcases decode_cases s.req.cmd with
    ⟨(hop : _ ≠ 0x01), hd⟩ | ⟨(hop : _ = 0x01), hwf, hd⟩ | ⟨(hop : _ = 0x01), hwf, hnone, hd⟩ |
      ⟨i, (hop : _ = 0x01), hwf, -, -, hd⟩
  · refine ⟨_, step_of_illegal hv hd, ?_, rfl, statusBits_toNat_le _⟩
    rw [if_pos hop]
    rfl
  · refine ⟨_, step_of_illegal hv hd, ?_, rfl, statusBits_toNat_le _⟩
    rw [if_neg (not_not_intro hop), if_pos hwf]
    rfl
  · have hwell : ¬ wfDesc desc = false := ne_false_of_eq_true hwf
    have hewc : ewcField desc = 3 :=
      (widthOfCode_eq_64_iff _).mp ((lookup_descriptorFields_eq_none_iff hwf).mp hnone)
    refine ⟨_, step_of_illegal hv hd, ?_, rfl, statusBits_toNat_le _⟩
    rw [if_neg (not_not_intro hop), if_neg hwell, if_pos hewc]
    rfl
  · have hwell : ¬ wfDesc desc = false := ne_false_of_eq_true hwf
    have hewc : ewcField desc ≠ 3 := ewcField_of_legal hd
    rw [if_neg (not_not_intro hop), if_neg hwell, if_neg hewc]
    by_cases htags : s.req.lhsTag ≠ desc ∨ s.req.rhsTag ≠ desc
    · rw [if_pos htags]
      exact ⟨_, step_of_wrong_tag hv hd htags, rfl, rfl, statusBits_toNat_le _⟩
    · rw [if_neg htags]
      obtain ⟨hl, hr⟩ : s.req.lhsTag = desc ∧ s.req.rhsTag = desc := by simpa using htags
      obtain ⟨data, hs⟩ := step_of_right_tags hv hd hl hr
      exact ⟨_, hs, rfl, rfl, statusBits_toNat_le _⟩

/-! ### What a reject holds -/

/-- A legal response with a reject code is that reject (spec/60_exceptions.md R115). -/
theorem Response.eq_rejectWith_of_wf {r : Response} {code : RejectCode} (h : r.wf) (hs : r.status = .reject code) :
    r = rejectWith code r.info := by
  obtain ⟨valid, status, info, tag, data⟩ := r
  rcases h with h | ⟨i, -, hok, -⟩ | ⟨c, hvalid, -, htag, hdata, -⟩
  · cases h
    cases hs
  · cases hok.symm.trans hs
  · cases hvalid
    cases hs
    cases htag
    cases hdata
    rfl

/-- Settles O37: the step leaves the request and a legal response, and a legal response with that code is the reject. -/
theorem rejectCarriesNoResultAndSavesNothing : Obligations.RejectCarriesNoResultAndSavesNothing := by
  unfold Obligations.RejectCarriesNoResultAndSavesNothing
  intro s t code hstep hs
  obtain ⟨hwf, -⟩ := everyStepLeavesALegalSettledResponse s t hstep
  have hrsp := Response.eq_rejectWith_of_wf hwf hs
  cases (step_eq_responseTo s).symm.trans hstep
  exact ⟨State.ext_ports rfl hrsp, hrsp ▸ Response.vector?_rejected _ _⟩

/-! ### What a reject depends on -/

/-- Operand data decide nothing but the data of a result. -/
theorem instrResponse_of_sameButData (i : Instr) {p q : Request} (h : sameButData p q) :
    instrResponse i p = instrResponse i q ∨
    ∃ tag a b, instrResponse i p = .accepted tag a ∧ instrResponse i q = .accepted tag b := by
  obtain ⟨-, -, hl, hr⟩ := h
  have hlhs : lhsMismatch (descField (encode i)) p = lhsMismatch (descField (encode i)) q := by
    rw [lhsMismatch, hl, lhsMismatch]
  have hrhs : rhsMismatch (descField (encode i)) p = rhsMismatch (descField (encode i)) q := by
    rw [rhsMismatch, hr, rhsMismatch]
  simp only [instrResponse, hlhs, hrhs]
  split
  · exact .inl rfl
  · exact .inr ⟨_, _, _, rfl, rfl⟩

/-- So it is for every request: the answers are the same, or results under one tag (spec/60_exceptions.md R109). -/
theorem responseTo_of_sameButData {p q : Request} (h : sameButData p q) :
    responseTo p = responseTo q ∨
    ∃ tag a b, responseTo p = .accepted tag a ∧ responseTo q = .accepted tag b := by
  have ⟨hvalid, hcmd, _, _⟩ := h
  rcases responseTo_cases p with ⟨hv, hp⟩ | ⟨c, hv, hd, hp⟩ | ⟨i, hv, hd, hp⟩ <;> rw [hp]
  · exact .inl (responseTo_of_idle (hvalid ▸ hv)).symm
  · left
    rw [responseTo_of_valid (hvalid ▸ hv), applyProcedure_of_illegal (hcmd ▸ hd)]
  · rw [responseTo_of_valid (hvalid ▸ hv), applyProcedure_of_legal (hcmd ▸ hd)]
    exact instrResponse_of_sameButData i h

/-- Settles O38: the two answers are the same, or two results under one tag. -/
theorem operandDataNeverDecidesAReject : Obligations.OperandDataNeverDecidesAReject := by
  unfold Obligations.OperandDataNeverDecidesAReject
  intro p q s hsame
  refine ⟨_, _, transact_eq_responseTo p s, transact_eq_responseTo q s, ?_⟩
  rcases responseTo_of_sameButData hsame with h | ⟨tag, a, b, hp, hq⟩
  · simp [h]
  · rw [hp, hq]
    exact ⟨rfl, rfl, rfl, rfl, fun hne => absurd rfl hne⟩

end Sys2Proof.Machine
end

section
/-! SUPPORT. Back-to-back transactions (spec/70_reset_and_hazards.md section 3): what an instruction answers may be an
operand of the transaction that follows. -/

namespace Sys2Proof.Machine

open Sys2Proof.Claims

/-- A call of an instruction on two vectors under its own tag completes with status OK, whatever the state before
(spec/70_reset_and_hazards.md R131). -/
theorem transact_call_encode_ok {i : Instr} {a b : PortVector} (s : State) (ha : a.tag = descField (encode i))
    (hb : b.tag = descField (encode i)) :
    ∃ u, transact (.call (encode i) a b) s = .next u ∧ u.rsp.status = .ok :=
  ⟨_, transact_call_of_legal s (decode_encode i) ha hb, rfl⟩

/-- Settles O44: the result bears the instruction's own tag, which is all that the next call asks of an operand. -/
theorem resultCanBeNextOperand : Obligations.ResultCanBeNextOperand := by
  unfold Obligations.ResultCanBeNextOperand
  intro i s hl hr
  refine ⟨_, _, exec_of_tags hl hr, rfl, rfl, fun p hp => ?_⟩
  exact ⟨transact_call_encode_ok _ rfl hp, transact_call_encode_ok _ hp rfl, transact_call_encode_ok _ rfl rfl⟩

end Sys2Proof.Machine
end
